-- ==== Sys2Proof/Word.lean ====
section
/-! DEFINITION. The word types of the machine (spec 00_scope.md R8, R9): bit vectors of a stated width, bit 0 the
least significant bit. -/

namespace Sys2Proof

/-- A 32-bit value: a register, an address, an instruction word (R8 `XLEN`). -/
abbrev Word := BitVec 32

/-- The smallest unit the instruction address space counts in (20_memory.md R42). -/
abbrev Byte := BitVec 8

/-- The 16-bit immediate pattern of an I-type word (30_encoding.md R51). -/
abbrev Half := BitVec 16

/-- A general register's index, 0 to 31 (R8 `NREG`, 10_state.md R13). -/
abbrev Reg := BitVec 5

/-- The 5-bit `shamt` field (30_encoding.md R51). -/
abbrev Shamt := BitVec 5

end Sys2Proof
end

