-- ==== Sys2Proof/Config.lean ====
section
/-! DEFINITION. The implementation parameters of spec 00_scope.md R8. They are plain data that the state carries
(`State.cfg`), so a statement about every state holds for every setting of every parameter. -/

namespace Sys2Proof

/-- `VARSHIFT_ROLES` (40_logical_shift.md R94): which source of `sllv`, `srav`, `srlv` is the value and which the
count. -/
inductive VarShiftRoles where
  /-- value = GPR[rs], count = GPR[rt][4:0]: the document's words, the spec's default (90_conflicts.md C3). -/
  | doc
  /-- value = GPR[rt], count = GPR[rs][4:0]: standard MIPS32. -/
  | mips32
deriving DecidableEq, Repr

/-- `ENDIAN` (20_memory.md R43): how the harness assembles a 32-bit word from four bytes. -/
inductive Endian where
  /-- The byte at the lowest address is bits 31..24 of the word. -/
  | big
  /-- The byte at the lowest address is bits 7..0 of the word. -/
  | little
deriving DecidableEq, Repr

/-- `HARNESS` (70_reset_and_hazards.md R164, 92_eei_decisions.md D9): the next-PC policy of the outside sequencer. -/
inductive Harness where
  /-- `ADVANCE_IF_NOT_WRITTEN`, the spec's reference: 4 is added only when the block wrote no PC. -/
  | advanceIfNotWritten
  /-- `EXEC_DELAY_SLOT`: the instruction after a branch executes before the branch takes effect (42_branch.md R126). -/
  | execDelaySlot
  /-- Any other policy, one for each number: D9 leaves them OPEN, so what it sets the PC to is a free value. -/
  | otherPolicy (number : Nat)
deriving DecidableEq, Repr

/-- The spec names this policy (70_reset_and_hazards.md R164, 92_eei_decisions.md D9). It describes the reference one;
what `EXEC_DELAY_SLOT` does with the PC is the model's reading (log 16). -/
def Harness.named (h : Harness) : Bool :=
  match h with
  | .advanceIfNotWritten => true
  | .execDelaySlot => true
  | .otherPolicy _ => false

/-- The parameters of R8 whose values the document does not fix. -/
structure Config where
  /-- `TRAP_ADDR`: where a trap sends the PC (60_exceptions.md R144). OPEN in the spec. -/
  trapAddr : Word
  /-- `OV_EXCCODE`: the cause code of arithmetic overflow (60_exceptions.md R142). -/
  ovExcCode : BitVec 5
  /-- `R0_HARDWIRED`: whether register 0 reads 0 and discards writes (10_state.md R14). -/
  r0Hardwired : Bool
  /-- `VARSHIFT_ROLES` (40_logical_shift.md R94). -/
  varShiftRoles : VarShiftRoles
  /-- `RESET_PC`: the PC at reset (70_reset_and_hazards.md R160). OPEN in the spec. -/
  resetPc : Word
  /-- `EXL_RESET`: Status.EXL at reset (70_reset_and_hazards.md R160). OPEN in the spec. -/
  exlReset : Bool
  /-- `ENDIAN`: the byte order of instruction fetch (20_memory.md R43). OPEN in the spec. -/
  endian : Endian
  /-- `HARNESS`: the next-PC policy of the outside sequencer (70_reset_and_hazards.md R164). -/
  harness : Harness
  /-- `REG_NAME`: the display name of each register index (10_state.md R13, R30). Only the trace shows it. -/
  regName : Vector String 32
deriving DecidableEq, Repr

/-- FREE VALUE (log 17): the PC a policy the spec does not name sets after its `turn`-th activation, given the
address of that activation and the block's PC write and trap signals. It has no body. -/
opaque Config.freeNextPc (policy turn : Nat) (address : Word) (pcWrite : Option Word) (trap : Bool) : Word

end Sys2Proof
end

