-- ==== Sys2Proof/Machine/Launch.lean ====
section
/-! DEFINITION. What the surrounding system fixes before the machine runs (spec 70_reset_and_hazards.md R161): the
parameters `State.reset` carries, and the values boot gives to state the spec has no reset value for. Every one is a
value for the launch only: no rule of the machine depends on it. -/

namespace Sys2Proof.Machine

/-- `RESET_PC`, OPEN in the spec (R160): DESIGN CHOICE 0x00400000, where every program of 95_test_vectors.md starts;
a multiple of 4 as R161 step 2 asks. Unsafe (log 3). -/
def Launch.resetPc : Word := 0x00400000

/-- `EXL_RESET`, OPEN in the spec (R160): DESIGN CHOICE 0, R161 step 5's value for overflows that trap. Unsafe
(log 4). -/
def Launch.exlReset : Bool := false

/-- `TRAP_ADDR`, OPEN in the spec (R8, 92_eei_decisions.md D10): PRESUMED 0x80000180, the family's general exception
vector, which D10 calls plausible. Unsafe (log 6). -/
def Launch.trapAddr : Word := 0x80000180

/-- `OV_EXCCODE`: the spec's default 12 (R8, R142; log 6). -/
def Launch.ovExcCode : BitVec 5 := 12

/-- `ENDIAN`, OPEN in the spec (20_memory.md R43): DESIGN CHOICE little. Unsafe (log 8). -/
def Launch.endian : Endian := .little

/-- `HARNESS`: the spec's reference policy (R8, R164; 92_eei_decisions.md D9; log 10). -/
def Launch.harness : Harness := .advanceIfNotWritten

/-- `REG_NAME`: the conventional names 10_state.md R13 lists, from general knowledge as it says (log 11). -/
def Launch.regName : Vector String 32 :=
  #v["$zero", "$at", "$v0", "$v1", "$a0", "$a1", "$a2", "$a3",
     "$t0", "$t1", "$t2", "$t3", "$t4", "$t5", "$t6", "$t7",
     "$s0", "$s1", "$s2", "$s3", "$s4", "$s5", "$s6", "$s7",
     "$t8", "$t9", "$k0", "$k1", "$gp", "$sp", "$fp", "$ra"]

/-- The parameters of the machine `State.reset` stands for: the spec's defaults of R8 where it has them. -/
def Launch.config : Config where
  trapAddr := Launch.trapAddr
  ovExcCode := Launch.ovExcCode
  r0Hardwired := true
  varShiftRoles := .doc
  resetPc := Launch.resetPc
  exlReset := Launch.exlReset
  endian := Launch.endian
  harness := Launch.harness
  regName := Launch.regName

/-- The value boot gives every general register (R161 step 3); the spec names none: DESIGN CHOICE 0. Unsafe (log 2). -/
def Launch.gprValue : Word := 0

/-- Cause.ExcCode at reset, unspecified in R160: DESIGN CHOICE 0. Unsafe (log 5). -/
def Launch.excCode : BitVec 5 := 0

/-- EPC at reset, unspecified in R160: DESIGN CHOICE 0. Unsafe (log 5). -/
def Launch.epc : Word := 0

end Sys2Proof.Machine
end

