-- ==== Sys2Proof/Machine/State.lean ====
section
/-! DEFINITION. The state of the machine (spec 10_state.md R32), the output signals of an activation (R26), and the
reasons a step can stop. -/

namespace Sys2Proof.Machine

/-- What the exception-trigger arbiter decides of an activation whose operands have values (60_exceptions.md R141,
R143). The other two outcomes of R141 are a refusal and a fault, which leave no next state. -/
inductive Decision where
  | commit
  | trap
  | suppressed
deriving DecidableEq, Repr

/-- The output signals of one activation (10_state.md R26). A signal pair of an enable and data that is "don't care"
when the enable is 0 is an `Option`. -/
structure Outputs where
  /-- `gpr_we`, `gpr_waddr`, `gpr_wdata` (R27). -/
  gprWrite : Option (Reg × Word)
  /-- `pc_we`, `pc_wdata` (R28). -/
  pcWrite : Option Word
  /-- `trap` (R29). -/
  trap : Bool
  /-- `outcome`, when the activation commits, traps or is suppressed. -/
  decision : Decision
deriving DecidableEq, Repr

/-- No signal driven: what `State.out` holds before the first activation (log 9). -/
def Outputs.idle : Outputs where
  gprWrite := none
  pcWrite := none
  trap := false
  decision := .commit

/-- Why a step stops without a next state. -/
inductive Fault where
  /-- An activation uses a read port that names a register nothing has written. The spec's own fault: "it is the fault
  `UnwrittenRead(i)` and commits nothing" (10_state.md R16), the outcome `Fault` of 60_exceptions.md R141 and R147.
  Raised by `Operand.use`. Safe: the spec gives the same fault. It cannot happen in a run from `State.reset`, where boot has given
  every register a value (log 2). -/
  | unwrittenRead (i : Reg)
  /-- The harness is to fetch at an address that is no multiple of 4 (20_memory.md R44, 70_reset_and_hazards.md R164).
  Raised by `State.fetch`. Safe: the spec's harness faults there. -/
  | misalignedFetch (pc : Word)
  /-- The harness is to fetch a byte at an address where no program text was placed (70_reset_and_hazards.md R161;
  log 7). Raised by `State.fetch`. Safe: the real memory would yield some word. -/
  | unplacedFetch (a : Word)
deriving DecidableEq, Repr

/-- Why a step has no meaning. -/
inductive Refusal where
  /-- An arm of `exec` with no meaning yet. Raised by no arm now. Safe. -/
  | notModelled (mnemonic : String)
  /-- The word selects none of the 26 handlers (30_encoding.md R63): the spec's refusal NotRouted, with nothing
  written. Raised by `step`. Safe: the spec gives the word no effect. -/
  | notRouted (w : Word)
deriving DecidableEq, Repr

/-- The machine: the block's state of R32, the parameters of R8, and the outside sequencer's state and program text. -/
structure State where
  /-- The parameters of 00_scope.md R8; no step changes them. -/
  cfg : Config
  /-- The general registers (R13). -/
  gpr : Vector Word 32
  /-- Which general registers have been given a value (R16): the others are *unwritten*, and a used read of one
  faults. -/
  written : Vector Bool 32
  /-- The PC (R17): between activations the address of the next instruction, during one the address of the instruction
  being executed. -/
  pc : Word
  /-- Status.EXL (R19). -/
  exl : Bool
  /-- Cause.ExcCode (R20). -/
  excCode : BitVec 5
  /-- EPC (R21). -/
  epc : Word
  /-- The output signals of the activation committed last (R26); the harness reads `pc_we` there (log 9). -/
  out : Outputs
  /-- The sequencer's: the branch target that waits for the instruction in its delay slot, under
  `Harness.execDelaySlot` (42_branch.md R126; log 16). The block does not see it. -/
  delayed : Option Word
  /-- The model's own counter for `Config.freeNextPc`, under `Harness.otherPolicy` (log 17). The block does not see
  it. -/
  turn : Nat
  /-- The program text, one byte per listed address, addresses rising (20_memory.md R42, R50; log 7). -/
  mem : List Host.Cell
deriving DecidableEq, Repr

/-- The machine of 70_reset_and_hazards.md R160 before boot: the PC and EXL at their parameters, no general register
written, Cause.ExcCode and EPC at any values (the draws `exc` and `e`), no text placed. -/
def State.atReset (c : Config) (exc : BitVec 5) (e : Word) : State where
  cfg := c
  gpr := Vector.replicate 32 0
  written := Vector.replicate 32 false
  pc := c.resetPc
  exl := c.exlReset
  excCode := exc
  epc := e
  out := .idle
  delayed := none
  turn := 0
  mem := []

/-- The machine right after reset and boot (R160, R161): `State.atReset` at the launch's parameters, every general
register given its value. -/
def State.reset : State :=
  { State.atReset Launch.config Launch.excCode Launch.epc with
    gpr := Vector.replicate 32 Launch.gprValue
    written := Vector.replicate 32 true }

end Sys2Proof.Machine
end

