-- ==== Sys2Proof/Machine/Flags.lean ====
section
/-! DEFINITION. The tests an instruction makes on its operands. The block has no flags (spec 10_state.md R22): the
signed-overflow detector feeds the arbiter (41_imm_arith.md R103, 60_exceptions.md R143), a compare writes 0 or 1
(R107, R108), a condition decides a branch (42_branch.md R122). -/

namespace Sys2Proof.Machine

/-- The signed-overflow detector on the two addends and the wrapped sum, in the document's own words (R103). -/
def ovfAdd (a b sum : Word) : Bool :=
  (0 < a.toInt && 0 < b.toInt && sum.toInt < 0) || (a.toInt < 0 && b.toInt < 0 && 0 < sum.toInt)

/-- The exception-trigger arbiter (60_exceptions.md R143). -/
def arbitrate (ovf exl : Bool) : Decision :=
  if !ovf then .commit
  else if !exl then .trap
  else .suppressed

/-- 0 or 1 as a register value (R107, R108). -/
def boolWord (b : Bool) : Word :=
  if b then 1 else 0

/-- `s(a) < s(b)` (R107). -/
def ltSigned (a b : Word) : Bool :=
  a.toInt < b.toInt

/-- `u(a) < u(b)` (R108). -/
def ltUnsigned (a b : Word) : Bool :=
  a.toNat < b.toNat

/-! The condition table of 42_branch.md R122. -/

/-- `bgez`, `bgezal`: `s(a) ≥ 0`. -/
def condGez (a : Word) : Bool := 0 ≤ a.toInt
/-- `bltz`, `bltzal`: `s(a) < 0`. -/
def condLtz (a : Word) : Bool := a.toInt < 0
/-- `bgtz`: `s(a) > 0`. -/
def condGtz (a : Word) : Bool := 0 < a.toInt
/-- `blez`: `s(a) ≤ 0`. -/
def condLez (a : Word) : Bool := a.toInt ≤ 0
/-- `beq`: 32-bit equality. -/
def condEq (a b : Word) : Bool := a == b
/-- `bne`: 32-bit inequality. -/
def condNe (a b : Word) : Bool := a != b

end Sys2Proof.Machine
end

