-- ==== Sys2Proof/Syntax.lean ====
section
/-! DEFINITION. The instructions: one constructor per row of spec/opcode_table.json (00_scope.md R3), and `Handler`,
the name of a row. Every field of the word that is no selector is an operand, the fields the block ignores
(30_encoding.md R64) among them, so that a constructor holds every bit of its word. Each operand's type is exactly as
wide as its field, so every term of `Instr` is the reading of one word. -/

namespace Sys2Proof

/-- One of the block's 26 handlers (00_scope.md R3): what `select` answers (30_encoding.md R62). -/
inductive Handler where
  | and
  | or
  | nor
  | xor
  | sll
  | sra
  | srl
  | sllv
  | srav
  | srlv
  | andi
  | ori
  | xori
  | lui
  | addi
  | addiu
  | slti
  | sltiu
  | beq
  | bne
  | blez
  | bgtz
  | bltz
  | bgez
  | bltzal
  | bgezal
deriving DecidableEq, Repr

/-- An instruction with all its decoded fields: `rd`, `rs`, `rt` register fields, `sa` the shamt field, `imm` the
16-bit immediate field. -/
inductive Instr where
  /-- `and` (R82); `shamt` is ignored (R64). -/
  | and (rd rs rt : Reg) (sa : Shamt)
  /-- `or` (R83); `shamt` is ignored (R64). -/
  | or (rd rs rt : Reg) (sa : Shamt)
  /-- `nor` (R84); `shamt` is ignored (R64). -/
  | nor (rd rs rt : Reg) (sa : Shamt)
  /-- `xor` (R85); `shamt` is ignored (R64). -/
  | xor (rd rs rt : Reg) (sa : Shamt)
  /-- `sll` (R91); `rs` is ignored (R64). -/
  | sll (rd rs rt : Reg) (sa : Shamt)
  /-- `sra` (R92); `rs` is ignored (R64). -/
  | sra (rd rs rt : Reg) (sa : Shamt)
  /-- `srl` (R93); `rs` is ignored (R64). -/
  | srl (rd rs rt : Reg) (sa : Shamt)
  /-- `sllv` (R95); `shamt` is ignored (R64). -/
  | sllv (rd rs rt : Reg) (sa : Shamt)
  /-- `srav` (R96); `shamt` is ignored (R64). -/
  | srav (rd rs rt : Reg) (sa : Shamt)
  /-- `srlv` (R97); `shamt` is ignored (R64). -/
  | srlv (rd rs rt : Reg) (sa : Shamt)
  /-- `andi` (R86). -/
  | andi (rt rs : Reg) (imm : Half)
  /-- `ori` (R87). -/
  | ori (rt rs : Reg) (imm : Half)
  /-- `xori` (R88). -/
  | xori (rt rs : Reg) (imm : Half)
  /-- `lui` (R89); `rs` is ignored (R64). -/
  | lui (rt rs : Reg) (imm : Half)
  /-- `addi` (R105). -/
  | addi (rt rs : Reg) (imm : Half)
  /-- `addiu` (R106). -/
  | addiu (rt rs : Reg) (imm : Half)
  /-- `slti` (R107). -/
  | slti (rt rs : Reg) (imm : Half)
  /-- `sltiu` (R108). -/
  | sltiu (rt rs : Reg) (imm : Half)
  /-- `beq` (R127). -/
  | beq (rs rt : Reg) (imm : Half)
  /-- `bne` (R128). -/
  | bne (rs rt : Reg) (imm : Half)
  /-- `blez` (R129); `rt` is ignored (R64). -/
  | blez (rs rt : Reg) (imm : Half)
  /-- `bgtz` (R130); `rt` is ignored (R64). -/
  | bgtz (rs rt : Reg) (imm : Half)
  /-- `bltz` (R131); the rt field is the selector (R61). -/
  | bltz (rs : Reg) (imm : Half)
  /-- `bgez` (R132); the rt field is the selector (R61). -/
  | bgez (rs : Reg) (imm : Half)
  /-- `bltzal` (R133); the rt field is the selector (R61). -/
  | bltzal (rs : Reg) (imm : Half)
  /-- `bgezal` (R134); the rt field is the selector (R61). -/
  | bgezal (rs : Reg) (imm : Half)
deriving DecidableEq, Repr

/-- The handler an instruction belongs to. -/
def Instr.handler : Instr → Handler
  | .and _ _ _ _ => .and
  | .or _ _ _ _ => .or
  | .nor _ _ _ _ => .nor
  | .xor _ _ _ _ => .xor
  | .sll _ _ _ _ => .sll
  | .sra _ _ _ _ => .sra
  | .srl _ _ _ _ => .srl
  | .sllv _ _ _ _ => .sllv
  | .srav _ _ _ _ => .srav
  | .srlv _ _ _ _ => .srlv
  | .andi _ _ _ => .andi
  | .ori _ _ _ => .ori
  | .xori _ _ _ => .xori
  | .lui _ _ _ => .lui
  | .addi _ _ _ => .addi
  | .addiu _ _ _ => .addiu
  | .slti _ _ _ => .slti
  | .sltiu _ _ _ => .sltiu
  | .beq _ _ _ => .beq
  | .bne _ _ _ => .bne
  | .blez _ _ _ => .blez
  | .bgtz _ _ _ => .bgtz
  | .bltz _ _ => .bltz
  | .bgez _ _ => .bgez
  | .bltzal _ _ => .bltzal
  | .bgezal _ _ => .bgezal

/-- The mnemonic of a handler, as spec/opcode_table.json spells it. -/
def Handler.mnemonic : Handler → String
  | .and => "and"
  | .or => "or"
  | .nor => "nor"
  | .xor => "xor"
  | .sll => "sll"
  | .sra => "sra"
  | .srl => "srl"
  | .sllv => "sllv"
  | .srav => "srav"
  | .srlv => "srlv"
  | .andi => "andi"
  | .ori => "ori"
  | .xori => "xori"
  | .lui => "lui"
  | .addi => "addi"
  | .addiu => "addiu"
  | .slti => "slti"
  | .sltiu => "sltiu"
  | .beq => "beq"
  | .bne => "bne"
  | .blez => "blez"
  | .bgtz => "bgtz"
  | .bltz => "bltz"
  | .bgez => "bgez"
  | .bltzal => "bltzal"
  | .bgezal => "bgezal"

/-- All 26 handlers, in the opcode table's order (00_scope.md R3). -/
def Handler.all : List Handler :=
  [.and, .or, .nor, .xor, .sll, .sra, .srl,
   .sllv, .srav, .srlv, .andi, .ori, .xori, .lui, .addi, .addiu, .slti, .sltiu,
   .beq, .bne, .blez, .bgtz, .bltz, .bgez, .bltzal, .bgezal]

/-- The same instruction with every field the block ignores set to 0 (30_encoding.md R64). -/
def Instr.clearIgnored : Instr → Instr
  | .and rd rs rt _ => .and rd rs rt 0
  | .or rd rs rt _ => .or rd rs rt 0
  | .nor rd rs rt _ => .nor rd rs rt 0
  | .xor rd rs rt _ => .xor rd rs rt 0
  | .sll rd _ rt sa => .sll rd 0 rt sa
  | .sra rd _ rt sa => .sra rd 0 rt sa
  | .srl rd _ rt sa => .srl rd 0 rt sa
  | .sllv rd rs rt _ => .sllv rd rs rt 0
  | .srav rd rs rt _ => .srav rd rs rt 0
  | .srlv rd rs rt _ => .srlv rd rs rt 0
  | .andi rt rs imm => .andi rt rs imm
  | .ori rt rs imm => .ori rt rs imm
  | .xori rt rs imm => .xori rt rs imm
  | .lui rt _ imm => .lui rt 0 imm
  | .addi rt rs imm => .addi rt rs imm
  | .addiu rt rs imm => .addiu rt rs imm
  | .slti rt rs imm => .slti rt rs imm
  | .sltiu rt rs imm => .sltiu rt rs imm
  | .beq rs rt imm => .beq rs rt imm
  | .bne rs rt imm => .bne rs rt imm
  | .blez rs _ imm => .blez rs 0 imm
  | .bgtz rs _ imm => .bgtz rs 0 imm
  | .bltz rs imm => .bltz rs imm
  | .bgez rs imm => .bgez rs imm
  | .bltzal rs imm => .bltzal rs imm
  | .bgezal rs imm => .bgezal rs imm

/-- The index on read port S: the rs field (10_state.md R25). -/
def Instr.portS : Instr → Reg
  | .and _ rs _ _ => rs
  | .or _ rs _ _ => rs
  | .nor _ rs _ _ => rs
  | .xor _ rs _ _ => rs
  | .sll _ rs _ _ => rs
  | .sra _ rs _ _ => rs
  | .srl _ rs _ _ => rs
  | .sllv _ rs _ _ => rs
  | .srav _ rs _ _ => rs
  | .srlv _ rs _ _ => rs
  | .andi _ rs _ => rs
  | .ori _ rs _ => rs
  | .xori _ rs _ => rs
  | .lui _ rs _ => rs
  | .addi _ rs _ => rs
  | .addiu _ rs _ => rs
  | .slti _ rs _ => rs
  | .sltiu _ rs _ => rs
  | .beq rs _ _ => rs
  | .bne rs _ _ => rs
  | .blez rs _ _ => rs
  | .bgtz rs _ _ => rs
  | .bltz rs _ => rs
  | .bgez rs _ => rs
  | .bltzal rs _ => rs
  | .bgezal rs _ => rs

/-- The index on read port T: the rt field (10_state.md R25); for a REGIMM branch that field is its selector
(30_encoding.md R61). -/
def Instr.portT : Instr → Reg
  | .and _ _ rt _ => rt
  | .or _ _ rt _ => rt
  | .nor _ _ rt _ => rt
  | .xor _ _ rt _ => rt
  | .sll _ _ rt _ => rt
  | .sra _ _ rt _ => rt
  | .srl _ _ rt _ => rt
  | .sllv _ _ rt _ => rt
  | .srav _ _ rt _ => rt
  | .srlv _ _ rt _ => rt
  | .andi rt _ _ => rt
  | .ori rt _ _ => rt
  | .xori rt _ _ => rt
  | .lui rt _ _ => rt
  | .addi rt _ _ => rt
  | .addiu rt _ _ => rt
  | .slti rt _ _ => rt
  | .sltiu rt _ _ => rt
  | .beq _ rt _ => rt
  | .bne _ rt _ => rt
  | .blez _ rt _ => rt
  | .bgtz _ rt _ => rt
  | .bltz _ _ => 0
  | .bgez _ _ => 1
  | .bltzal _ _ => 16
  | .bgezal _ _ => 17

end Sys2Proof
end

