-- ==== Sys2Proof/WellFormed.lean ====
section
/-! DEFINITION. Which words are instruction words. `Handler.mask` and `Handler.pattern` are the mask and match columns
of spec/opcode_table.json; a word is well formed when some row's selector bits are its own (30_encoding.md R64: the
masks cover only the selector bits, and the block validates no other field). An `Instr` needs no check of its own:
each operand's type is its field's width (Syntax.lean), so there is no ill-formed term. -/

namespace Sys2Proof

/-- The selector bits of a row: the mask column of spec/opcode_table.json. -/
def Handler.mask : Handler → Word
  | .and => 0xFC00003F
  | .or => 0xFC00003F
  | .nor => 0xFC00003F
  | .xor => 0xFC00003F
  | .sll => 0xFC00003F
  | .sra => 0xFC00003F
  | .srl => 0xFC00003F
  | .sllv => 0xFC00003F
  | .srav => 0xFC00003F
  | .srlv => 0xFC00003F
  | .andi => 0xFC000000
  | .ori => 0xFC000000
  | .xori => 0xFC000000
  | .lui => 0xFC000000
  | .addi => 0xFC000000
  | .addiu => 0xFC000000
  | .slti => 0xFC000000
  | .sltiu => 0xFC000000
  | .beq => 0xFC000000
  | .bne => 0xFC000000
  | .blez => 0xFC000000
  | .bgtz => 0xFC000000
  | .bltz => 0xFC1F0000
  | .bgez => 0xFC1F0000
  | .bltzal => 0xFC1F0000
  | .bgezal => 0xFC1F0000

/-- The values of the selector bits: the match column of spec/opcode_table.json. -/
def Handler.pattern : Handler → Word
  | .and => 0x00000024
  | .or => 0x00000025
  | .nor => 0x00000027
  | .xor => 0x00000026
  | .sll => 0x00000000
  | .sra => 0x00000003
  | .srl => 0x00000002
  | .sllv => 0x00000004
  | .srav => 0x00000007
  | .srlv => 0x00000006
  | .andi => 0x30000000
  | .ori => 0x34000000
  | .xori => 0x38000000
  | .lui => 0x3C000000
  | .addi => 0x20000000
  | .addiu => 0x24000000
  | .slti => 0x28000000
  | .sltiu => 0x2C000000
  | .beq => 0x10000000
  | .bne => 0x14000000
  | .blez => 0x18000000
  | .bgtz => 0x1C000000
  | .bltz => 0x04000000
  | .bgez => 0x04010000
  | .bltzal => 0x04100000
  | .bgezal => 0x04110000

/-- The word carries this row's selectors. -/
def Handler.matchesWord (h : Handler) (w : Word) : Bool :=
  w &&& h.mask == h.pattern

/-- The word is one of the 26 instructions' words. -/
def WordWellFormed (w : Word) : Bool :=
  Handler.all.any fun h => h.matchesWord w

end Sys2Proof
end

