-- ==== Sys2Proof/Decode.lean ====
section
/-! DEFINITION. The decoder (spec 30_encoding.md): field extraction, handler selection, the instruction a word stands
for, byte layout of a word, and the encoder. -/

namespace Sys2Proof

/-! Field extraction (R52): total on every word. -/

/-- `instr[31:26]` (R52). -/
def Field.opcode (w : Word) : BitVec 6 := w.extractLsb' 26 6
/-- `instr[25:21]` (R52). -/
def Field.rs (w : Word) : Reg := w.extractLsb' 21 5
/-- `instr[20:16]` (R52). -/
def Field.rt (w : Word) : Reg := w.extractLsb' 16 5
/-- `instr[15:11]` (R52). -/
def Field.rd (w : Word) : Reg := w.extractLsb' 11 5
/-- `instr[10:6]` (R52). -/
def Field.shamt (w : Word) : Shamt := w.extractLsb' 6 5
/-- `instr[5:0]` (R52). -/
def Field.funct (w : Word) : BitVec 6 := w.extractLsb' 0 6
/-- `instr[15:0]` (R52). -/
def Field.imm (w : Word) : Half := w.extractLsb' 0 16

/-! Handler selection (R61, R62); `none` is NotRouted (R63). The selector values are the spec's standard MIPS32 values
(93_implementation_defined.md I1; log 14). -/

/-- Opcode SPECIAL, selected by `funct` (R61). -/
def selectSpecial (f : BitVec 6) : Option Handler :=
  match f with
  | 0x00#6 => some .sll
  | 0x02#6 => some .srl
  | 0x03#6 => some .sra
  | 0x04#6 => some .sllv
  | 0x06#6 => some .srlv
  | 0x07#6 => some .srav
  | 0x24#6 => some .and
  | 0x25#6 => some .or
  | 0x26#6 => some .xor
  | 0x27#6 => some .nor
  | _ => none

/-- Opcode REGIMM, selected by the rt field (R61). -/
def selectRegimm (rt : Reg) : Option Handler :=
  match rt with
  | 0x00#5 => some .bltz
  | 0x01#5 => some .bgez
  | 0x10#5 => some .bltzal
  | 0x11#5 => some .bgezal
  | _ => none

/-- The handler of a word (R62). -/
def select (w : Word) : Option Handler :=
  match Field.opcode w with
  | 0x00#6 => selectSpecial (Field.funct w)
  | 0x01#6 => selectRegimm (Field.rt w)
  | 0x04#6 => some .beq
  | 0x05#6 => some .bne
  | 0x06#6 => some .blez
  | 0x07#6 => some .bgtz
  | 0x08#6 => some .addi
  | 0x09#6 => some .addiu
  | 0x0A#6 => some .slti
  | 0x0B#6 => some .sltiu
  | 0x0C#6 => some .andi
  | 0x0D#6 => some .ori
  | 0x0E#6 => some .xori
  | 0x0F#6 => some .lui
  | _ => none

/-- The instruction a word stands for once its handler is selected: the fields of R51 that are no selectors. -/
def Handler.build (h : Handler) (w : Word) : Instr :=
  match h with
  | .and => .and (Field.rd w) (Field.rs w) (Field.rt w) (Field.shamt w)
  | .or => .or (Field.rd w) (Field.rs w) (Field.rt w) (Field.shamt w)
  | .nor => .nor (Field.rd w) (Field.rs w) (Field.rt w) (Field.shamt w)
  | .xor => .xor (Field.rd w) (Field.rs w) (Field.rt w) (Field.shamt w)
  | .sll => .sll (Field.rd w) (Field.rs w) (Field.rt w) (Field.shamt w)
  | .sra => .sra (Field.rd w) (Field.rs w) (Field.rt w) (Field.shamt w)
  | .srl => .srl (Field.rd w) (Field.rs w) (Field.rt w) (Field.shamt w)
  | .sllv => .sllv (Field.rd w) (Field.rs w) (Field.rt w) (Field.shamt w)
  | .srav => .srav (Field.rd w) (Field.rs w) (Field.rt w) (Field.shamt w)
  | .srlv => .srlv (Field.rd w) (Field.rs w) (Field.rt w) (Field.shamt w)
  | .andi => .andi (Field.rt w) (Field.rs w) (Field.imm w)
  | .ori => .ori (Field.rt w) (Field.rs w) (Field.imm w)
  | .xori => .xori (Field.rt w) (Field.rs w) (Field.imm w)
  | .lui => .lui (Field.rt w) (Field.rs w) (Field.imm w)
  | .addi => .addi (Field.rt w) (Field.rs w) (Field.imm w)
  | .addiu => .addiu (Field.rt w) (Field.rs w) (Field.imm w)
  | .slti => .slti (Field.rt w) (Field.rs w) (Field.imm w)
  | .sltiu => .sltiu (Field.rt w) (Field.rs w) (Field.imm w)
  | .beq => .beq (Field.rs w) (Field.rt w) (Field.imm w)
  | .bne => .bne (Field.rs w) (Field.rt w) (Field.imm w)
  | .blez => .blez (Field.rs w) (Field.rt w) (Field.imm w)
  | .bgtz => .bgtz (Field.rs w) (Field.rt w) (Field.imm w)
  | .bltz => .bltz (Field.rs w) (Field.imm w)
  | .bgez => .bgez (Field.rs w) (Field.imm w)
  | .bltzal => .bltzal (Field.rs w) (Field.imm w)
  | .bgezal => .bgezal (Field.rs w) (Field.imm w)

/-- Why bytes are no instruction. -/
inductive DecodeReject where
  /-- `select` maps the word to no handler (R63). -/
  | notRouted (w : Word)
  /-- Fewer than the four bytes of a word (R53) were given. -/
  | truncated
deriving DecidableEq, Repr

/-- The decoder on a word: R62, then the fields. Total; the one rejection is NotRouted (R63). -/
def decode (w : Word) : Except DecodeReject Instr :=
  match select w with
  | some h => .ok (h.build w)
  | none => .error (.notRouted w)

/-- The word four bytes make, lowest address first, in the given byte order (20_memory.md R43). -/
def assembleWord (e : Endian) (b0 b1 b2 b3 : Byte) : Word :=
  match e with
  | .big => b0 ++ b1 ++ b2 ++ b3
  | .little => b3 ++ b2 ++ b1 ++ b0

/-- The four bytes of a word, lowest address first, in the given byte order (20_memory.md R43). -/
def layoutWord (e : Endian) (w : Word) : List Byte :=
  match e with
  | .big => [w.extractLsb' 24 8, w.extractLsb' 16 8, w.extractLsb' 8 8, w.extractLsb' 0 8]
  | .little => [w.extractLsb' 0 8, w.extractLsb' 8 8, w.extractLsb' 16 8, w.extractLsb' 24 8]

/-- The decoder on any bytes: one instruction is exactly four of them (R53); the rest is handed back. -/
def decodeBytes (e : Endian) (bs : List Byte) : Except DecodeReject (Instr × List Byte) :=
  match bs with
  | b0 :: b1 :: b2 :: b3 :: rest =>
    match decode (assembleWord e b0 b1 b2 b3) with
    | .ok i => .ok (i, rest)
    | .error r => .error r
  | _ => .error .truncated

/-! The encoder, from the same layouts (R51) and selector values (R61). -/

/-- An I-type word: opcode|rs|rt|immediate (R51). -/
def iWord (opcode : BitVec 6) (rt rs : Reg) (imm : Half) : Word :=
  opcode ++ rs ++ rt ++ imm

/-- An R-type word under opcode SPECIAL: opcode|rs|rt|rd|shamt|funct (R51); rd, shamt and funct stand where an I-type
word has its immediate (R52). -/
def rWord (funct : BitVec 6) (rd rs rt : Reg) (sa : Shamt) : Word :=
  iWord 0x00#6 rt rs (rd ++ sa ++ funct)

/-- The word of an instruction. -/
def encode (i : Instr) : Word :=
  match i with
  | .and rd rs rt sa => rWord 0x24#6 rd rs rt sa
  | .or rd rs rt sa => rWord 0x25#6 rd rs rt sa
  | .nor rd rs rt sa => rWord 0x27#6 rd rs rt sa
  | .xor rd rs rt sa => rWord 0x26#6 rd rs rt sa
  | .sll rd rs rt sa => rWord 0x00#6 rd rs rt sa
  | .sra rd rs rt sa => rWord 0x03#6 rd rs rt sa
  | .srl rd rs rt sa => rWord 0x02#6 rd rs rt sa
  | .sllv rd rs rt sa => rWord 0x04#6 rd rs rt sa
  | .srav rd rs rt sa => rWord 0x07#6 rd rs rt sa
  | .srlv rd rs rt sa => rWord 0x06#6 rd rs rt sa
  | .andi rt rs imm => iWord 0x0C#6 rt rs imm
  | .ori rt rs imm => iWord 0x0D#6 rt rs imm
  | .xori rt rs imm => iWord 0x0E#6 rt rs imm
  | .lui rt rs imm => iWord 0x0F#6 rt rs imm
  | .addi rt rs imm => iWord 0x08#6 rt rs imm
  | .addiu rt rs imm => iWord 0x09#6 rt rs imm
  | .slti rt rs imm => iWord 0x0A#6 rt rs imm
  | .sltiu rt rs imm => iWord 0x0B#6 rt rs imm
  | .beq rs rt imm => iWord 0x04#6 rt rs imm
  | .bne rs rt imm => iWord 0x05#6 rt rs imm
  | .blez rs rt imm => iWord 0x06#6 rt rs imm
  | .bgtz rs rt imm => iWord 0x07#6 rt rs imm
  | .bltz rs imm => iWord 0x01#6 0x00#5 rs imm
  | .bgez rs imm => iWord 0x01#6 0x01#5 rs imm
  | .bltzal rs imm => iWord 0x01#6 0x10#5 rs imm
  | .bgezal rs imm => iWord 0x01#6 0x11#5 rs imm

/-- The bytes of an instruction, lowest address first. -/
def encodeBytes (e : Endian) (i : Instr) : List Byte :=
  layoutWord e (encode i)

/-- What the decoder reads from an instruction whose bits are `w`, numbered as spec/opcode_table.json numbers them (one
word, bit 0 its least significant bit): the word's bytes are laid out and given to `decodeBytes`. The answer is the
same for both byte orders, since the bytes are laid out and read in one order. `nbits` is 32 for every row, and a `w`
that does not fit one word is no instruction. -/
def decodeTableWord (nbits w : Nat) : Option Instr :=
  if nbits ≤ 32 ∧ w < 2 ^ 32 then
    match decodeBytes .little (layoutWord .little (BitVec.ofNat 32 w)) with
    | .ok (i, _) => some i
    | .error _ => none
  else none

end Sys2Proof
end

