-- ==== Sys2Proof/Machine/Ops.lean ====
section
/-! DEFINITION. The named operations over registers, program text and CP0 fields, and the commit of an activation
(spec 10_state.md R14, R16, R24 to R29; 60_exceptions.md R144). -/

namespace Sys2Proof.Machine

/-- How one activation ends. -/
abbrev Result := Host.Outcome State Fault Refusal

/-! General registers. -/

/-- `LINK_REG` (00_scope.md R8): the link register's index. -/
def linkReg : Reg := 31

/-- `LINK_OFFSET` (00_scope.md R8): the link value's distance from the branch. -/
def linkOffset : Word := 8

/-- Index 0 while register 0 is hard-wired (R14). -/
def State.hardwired (s : State) (i : Reg) : Bool :=
  s.cfg.r0Hardwired && i == 0

/-- What a read port yields for index `i` (R14, R16, R25): 0 for a hard-wired register 0, the value of a written
register, no value for an unwritten one. -/
def State.readGpr (s : State) (i : Reg) : Option Word :=
  if s.hardwired i then some 0
  else if s.written[i.toNat] then some s.gpr[i.toNat]
  else none

/-- The register file's write (R14, R27): discarded for a hard-wired register 0; otherwise the register holds the
value and is no longer unwritten (R16). -/
def State.writeGpr (s : State) (i : Reg) (v : Word) : State :=
  if s.hardwired i then s
  else { s with gpr := s.gpr.set i.toNat v, written := s.written.set i.toNat true }

/-! Program text (20_memory.md R42, R50). An unlisted address holds nothing (log 7). -/

/-- The byte at an address, if one was placed there. -/
def Memory.read (m : List Host.Cell) (a : Nat) : Option Byte :=
  match m with
  | [] => none
  | (b, v) :: rest => if b = a then some v else Memory.read rest a

/-- Place a byte at an address, keeping the addresses rising. -/
def Memory.write (m : List Host.Cell) (a : Nat) (v : Byte) : List Host.Cell :=
  match m with
  | [] => [(a, v)]
  | (b, u) :: rest =>
    if a < b then (a, v) :: (b, u) :: rest
    else if a = b then (a, v) :: rest
    else (b, u) :: Memory.write rest a v

/-- Every listed address is at least `low` and below 2^32, and each is above the one before it. -/
def Memory.wfFrom (low : Nat) (m : List Host.Cell) : Bool :=
  match m with
  | [] => true
  | (b, _) :: rest => low ≤ b && b < 2 ^ 32 && Memory.wfFrom (b + 1) rest

/-- The canonical form: addresses strictly rising, all in the 32-bit space (R42). Since an unlisted address holds
nothing, no listed entry equals what an unlisted address reads as. -/
def Memory.wf (m : List Host.Cell) : Bool :=
  Memory.wfFrom 0 m

/-- Place bytes at successive addresses of the 32-bit space. -/
def State.placeBytes (s : State) (a : Word) (bs : List Byte) : State :=
  match bs with
  | [] => s
  | b :: rest => State.placeBytes { s with mem := Memory.write s.mem a.toNat b } (a + 1) rest

/-- Place a word as program text, in the harness's byte order (R43, R161 step 1). -/
def State.placeWord (s : State) (a w : Word) : State :=
  s.placeBytes a (layoutWord s.cfg.endian w)

/-! CP0 fields and the PC. -/

/-- The block's PC write (R28). -/
def State.writePc (s : State) (target : Word) : State :=
  { s with pc := target }

/-- Taking an exception (60_exceptions.md R144): the code is recorded, EPC gets the address of the instruction being
executed, the PC goes to the one trap-entry address, EXL is set; nothing else changes. There is no return from an
exception beside it: the block has none, and nothing in it clears EXL (R149). -/
def State.takeException (s : State) (code : BitVec 5) : State :=
  { s with excCode := code, epc := s.pc, pc := s.cfg.trapAddr, exl := true }

/-! The output signals of an activation. -/

/-- A register write and nothing else (R27). -/
def Outputs.gpr (i : Reg) (v : Word) : Outputs :=
  { Outputs.idle with gprWrite := some (i, v) }

/-- A branch (R28, R123): a PC write exactly when the condition holds. -/
def Outputs.branch (taken : Bool) (target : Word) : Outputs :=
  { Outputs.idle with pcWrite := if taken then some target else none }

/-- A branch and link (R125): the link register is written whether or not the branch is taken. -/
def Outputs.branchLink (taken : Bool) (target link : Word) : Outputs :=
  { Outputs.branch taken target with gprWrite := some (linkReg, link) }

/-- A trap (R28, R29): no register write, the PC to the trap-entry address. -/
def Outputs.trapTo (trapAddr : Word) : Outputs where
  gprWrite := none
  pcWrite := some trapAddr
  trap := true
  decision := .trap

/-- A suppressed overflow (60_exceptions.md R145): nothing is written. -/
def Outputs.suppressed : Outputs :=
  { Outputs.idle with decision := .suppressed }

/-! Commit (R24 step 4): the writes of one activation, together. -/

/-- The register write of R27. -/
def State.applyGprWrite (s : State) (write : Option (Reg × Word)) : State :=
  match write with
  | some (i, v) => s.writeGpr i v
  | none => s

/-- The PC write of R28. -/
def State.applyPcWrite (s : State) (write : Option Word) : State :=
  match write with
  | some target => s.writePc target
  | none => s

/-- The commit of an activation's output signals (R27, R28, R29). -/
def State.commit (s : State) (o : Outputs) : State :=
  if o.trap then { (s.takeException s.cfg.ovExcCode).applyGprWrite o.gprWrite with out := o }
  else { (s.applyGprWrite o.gprWrite).applyPcWrite o.pcWrite with out := o }

end Sys2Proof.Machine
end

