-- ==== Sys2Proof/Machine/Operands.lean ====
section
/-! DEFINITION. The input signals of an activation, the operand slots and the two operand decoders (spec 10_state.md
R23 to R26, 30_encoding.md R54 to R60), and the run of one activation. -/

namespace Sys2Proof.Machine

/-! Immediate assembly. -/

/-- `sext_32` (R58). -/
def sext32 (p : Half) : Word := p.signExtend 32

/-- `zext_32` (R59). -/
def zext32 (p : Half) : Word := p.setWidth 32

/-- The immediate of `lui` (R60): the pattern in the upper half-word. -/
def upperImm (p : Half) : Word := p ++ 0#16

/-- The branch offset (R60): the sign-extended pattern times 4. -/
def branchOffset (p : Half) : Word := sext32 p <<< 2

/-- The branch target (42_branch.md R124): from the branch's own address, with no `+ 4`, modulo 2^32. -/
def branchTarget (pc : Word) (p : Half) : Word := pc + branchOffset p

/-- The link value (42_branch.md R125). -/
def linkValue (pc : Word) : Word := pc + linkOffset

/-! Inputs and operand slots. -/

/-- The input signals of an activation (R26), beside the instruction: the parameters, the address of the instruction,
the data of the two read ports (no value for an unwritten register, R16) and Status.EXL. -/
structure Inputs where
  cfg : Config
  pc : Word
  rsVal : Option Word
  rtVal : Option Word
  exl : Bool
deriving DecidableEq, Repr

/-- The decode step's snapshot: both ports are read in every activation (R24 step 1, R25). -/
def State.inputs (s : State) (rs rt : Reg) : Inputs where
  cfg := s.cfg
  pc := s.pc
  rsVal := s.readGpr rs
  rtVal := s.readGpr rt
  exl := s.exl

/-- A source operand slot (R23). -/
inductive Operand where
  /-- An index and the value the register held at decode time. -/
  | register (index : Reg) (value : Option Word)
  /-- The raw field value and its resolved value. -/
  | immediate (raw : Half) (resolved : Word)
deriving DecidableEq, Repr

/-- The three operand slots of an activation (R23); the destination holds only an index. -/
structure Slots where
  source1 : Operand
  source2 : Operand
  destination : Reg
deriving DecidableEq, Repr

/-- The R-type decoder (R54). -/
def rTypeSlots (rd rs rt : Reg) (inp : Inputs) : Slots where
  source1 := .register rs inp.rsVal
  source2 := .register rt inp.rtVal
  destination := rd

/-- The I-type decoder (R55): the immediate is resolved by zero extension. -/
def iTypeSlots (rt rs : Reg) (imm : Half) (inp : Inputs) : Slots where
  source1 := .register rs inp.rsVal
  source2 := .immediate imm (zext32 imm)
  destination := rt

/-- The second compare register of `beq` and `bne`, read through port T (R56, 42_branch.md R121, 90_conflicts.md C5). -/
def secondCompare (rt : Reg) (inp : Inputs) : Operand :=
  .register rt inp.rtVal

/-- A handler uses an operand's resolved value: an unwritten register on a used port is the fault R16 states, the
outcome `Fault` of 60_exceptions.md R141, the treatment 93_implementation_defined.md U7 fixes. -/
def Operand.use (o : Operand) (k : Word → Except Fault Outputs) : Except Fault Outputs :=
  match o with
  | .register _ (some v) => k v
  | .register i none => .error (.unwrittenRead i)
  | .immediate _ v => k v

/-! Handler shapes. A port a handler does not use cannot fault (R16). -/

/-- Both sources' resolved values make the result (40_logical_shift.md R81). -/
def bothSources (sl : Slots) (f : Word → Word → Word) : Except Fault Outputs :=
  sl.source1.use fun a => sl.source2.use fun b => .ok (.gpr sl.destination (f a b))

/-- Only source1 makes the result (41_imm_arith.md R101: the handler extends the raw immediate itself). -/
def firstSource (sl : Slots) (f : Word → Word) : Except Fault Outputs :=
  sl.source1.use fun a => .ok (.gpr sl.destination (f a))

/-- Only source2 makes the result (40_logical_shift.md R89, R90). -/
def secondSource (sl : Slots) (f : Word → Word) : Except Fault Outputs :=
  sl.source2.use fun b => .ok (.gpr sl.destination (f b))

/-- The roles of the two sources of a variable shift (40_logical_shift.md R94): the value, and the low five bits of the
count. -/
def shiftRoles (roles : VarShiftRoles) (rsVal rtVal : Word) : Word × BitVec 5 :=
  match roles with
  | .doc => (rsVal, rtVal.extractLsb' 0 5)
  | .mips32 => (rtVal, rsVal.extractLsb' 0 5)

/-- A shift by a register (40_logical_shift.md R94). -/
def variableShift (sl : Slots) (roles : VarShiftRoles) (f : Word → Nat → Word) : Except Fault Outputs :=
  bothSources sl fun a b => f (shiftRoles roles a b).1 (shiftRoles roles a b).2.toNat

/-- One activation (R24): the handler works on the decode step's snapshot, and its output signals are committed
together, or nothing is. -/
def State.activate (s : State) (rs rt : Reg) (handler : Inputs → Except Fault Outputs) : Result :=
  match handler (s.inputs rs rt) with
  | .ok o => .next (s.commit o)
  | .error f => .fault f

end Sys2Proof.Machine
end

