-- ==== Sys2Proof/Machine/Branch.lean ====
section
/-! DEFINITION. The conditional branches and branch-and-link instructions (spec 42_branch.md R121 to R134). The PC is written
exactly when the condition holds (R123); no delay slot is executed (R126). -/

namespace Sys2Proof.Machine

/-- A branch on source1 alone (R121, R123, R124). The destination slot holds the rt field's index all the same
(30_encoding.md R55), and no one uses it. -/
def branchOn (cond : Word → Bool) (rs rt : Reg) (imm : Half) (inp : Inputs) : Except Fault Outputs :=
  (iTypeSlots rt rs imm inp).source1.use fun a => .ok (.branch (cond a) (branchTarget inp.pc imm))

/-- A branch and link on source1 alone; the condition is that of the snapshot, before the link is written (R125). -/
def branchLinkOn (cond : Word → Bool) (rs rt : Reg) (imm : Half) (inp : Inputs) : Except Fault Outputs :=
  (iTypeSlots rt rs imm inp).source1.use fun a =>
    .ok (.branchLink (cond a) (branchTarget inp.pc imm) (linkValue inp.pc))

/-- A branch on source1 and the register the destination slot names, repurposed as the second compare register
(R121; 30_encoding.md R56). -/
def branchOnTwo (cond : Word → Word → Bool) (rs rt : Reg) (imm : Half) (inp : Inputs) : Except Fault Outputs :=
  (iTypeSlots rt rs imm inp).source1.use fun a =>
    (secondCompare (iTypeSlots rt rs imm inp).destination inp).use fun b => .ok (.branch (cond a b) (branchTarget inp.pc imm))

/-- `beq rs, rt, off` (R127). -/
def execBeq (rs rt : Reg) (imm : Half) (s : State) : Result :=
  s.activate rs rt (branchOnTwo condEq rs rt imm)

/-- `bne rs, rt, off` (R128). -/
def execBne (rs rt : Reg) (imm : Half) (s : State) : Result :=
  s.activate rs rt (branchOnTwo condNe rs rt imm)

/-- `blez rs, off` (R129); the rt field is ignored. -/
def execBlez (rs rt : Reg) (imm : Half) (s : State) : Result :=
  s.activate rs rt (branchOn condLez rs rt imm)

/-- `bgtz rs, off` (R130); the rt field is ignored. -/
def execBgtz (rs rt : Reg) (imm : Half) (s : State) : Result :=
  s.activate rs rt (branchOn condGtz rs rt imm)

/-- `bltz rs, off` (R131); the rt field is the selector 0, which port T reads and no one uses. -/
def execBltz (rs : Reg) (imm : Half) (s : State) : Result :=
  s.activate rs 0 (branchOn condLtz rs 0 imm)

/-- `bgez rs, off` (R132); the rt field is the selector 1, which port T reads and no one uses. -/
def execBgez (rs : Reg) (imm : Half) (s : State) : Result :=
  s.activate rs 1 (branchOn condGez rs 1 imm)

/-- `bltzal rs, off` (R133); the rt field is the selector 16, which port T reads and no one uses. -/
def execBltzal (rs : Reg) (imm : Half) (s : State) : Result :=
  s.activate rs 16 (branchLinkOn condLtz rs 16 imm)

/-- `bgezal rs, off` (R134); the rt field is the selector 17, which port T reads and no one uses. -/
def execBgezal (rs : Reg) (imm : Half) (s : State) : Result :=
  s.activate rs 17 (branchLinkOn condGez rs 17 imm)

end Sys2Proof.Machine
end

