-- ==== Sys2Proof/Machine/ImmArith.lean ====
section
/-! DEFINITION. The immediate arithmetic and compare instructions (spec 41_imm_arith.md R101 to R108). -/

namespace Sys2Proof.Machine

/-- What the arbiter's decision drives for an `addi` (R105; 60_exceptions.md R143 to R145). -/
def decidedSum (d : Decision) (trapAddr : Word) (rt : Reg) (sum : Word) : Outputs :=
  match d with
  | .commit => .gpr rt sum
  | .trap => .trapTo trapAddr
  | .suppressed => .suppressed

/-- `addi rt, rs, imm` (R105): the sum is written unless it overflows; an overflow goes to the arbiter. -/
def execAddi (rt rs : Reg) (imm : Half) (s : State) : Result :=
  s.activate rs rt fun inp =>
    (iTypeSlots rt rs imm inp).source1.use fun a =>
      .ok (decidedSum (arbitrate (ovfAdd a (sext32 imm) (a + sext32 imm)) inp.exl) inp.cfg.trapAddr rt
        (a + sext32 imm))

/-- `addiu rt, rs, imm` (R106): wraps, never traps. -/
def execAddiu (rt rs : Reg) (imm : Half) (s : State) : Result :=
  s.activate rs rt fun inp => firstSource (iTypeSlots rt rs imm inp) fun a => a + sext32 imm

/-- `slti rt, rs, imm` (R107): compares as signed. -/
def execSlti (rt rs : Reg) (imm : Half) (s : State) : Result :=
  s.activate rs rt fun inp => firstSource (iTypeSlots rt rs imm inp) fun a => boolWord (ltSigned a (sext32 imm))

/-- `sltiu rt, rs, imm` (R108): sign-extends, then compares as unsigned. -/
def execSltiu (rt rs : Reg) (imm : Half) (s : State) : Result :=
  s.activate rs rt fun inp => firstSource (iTypeSlots rt rs imm inp) fun a => boolWord (ltUnsigned a (sext32 imm))

end Sys2Proof.Machine
end

