-- ==== Sys2Proof/Machine/Logical.lean ====
section
/-! DEFINITION. The logical instructions (spec 40_logical_shift.md R81 to R89). None can fault but by an unwritten used
register, and none writes the PC or a CP0 field. -/

namespace Sys2Proof.Machine

/-- `and rd, rs, rt` (R82). -/
def execAnd (rd rs rt : Reg) (_sa : Shamt) (s : State) : Result :=
  s.activate rs rt fun inp => bothSources (rTypeSlots rd rs rt inp) fun a b => a &&& b

/-- `or rd, rs, rt` (R83). -/
def execOr (rd rs rt : Reg) (_sa : Shamt) (s : State) : Result :=
  s.activate rs rt fun inp => bothSources (rTypeSlots rd rs rt inp) fun a b => a ||| b

/-- `nor rd, rs, rt` (R84). -/
def execNor (rd rs rt : Reg) (_sa : Shamt) (s : State) : Result :=
  s.activate rs rt fun inp => bothSources (rTypeSlots rd rs rt inp) fun a b => ~~~(a ||| b)

/-- `xor rd, rs, rt` (R85). -/
def execXor (rd rs rt : Reg) (_sa : Shamt) (s : State) : Result :=
  s.activate rs rt fun inp => bothSources (rTypeSlots rd rs rt inp) fun a b => a ^^^ b

/-- `andi rt, rs, imm` (R86): source2 is the zero-extended immediate. -/
def execAndi (rt rs : Reg) (imm : Half) (s : State) : Result :=
  s.activate rs rt fun inp => bothSources (iTypeSlots rt rs imm inp) fun a b => a &&& b

/-- `ori rt, rs, imm` (R87): source2 is the zero-extended immediate. -/
def execOri (rt rs : Reg) (imm : Half) (s : State) : Result :=
  s.activate rs rt fun inp => bothSources (iTypeSlots rt rs imm inp) fun a b => a ||| b

/-- `xori rt, rs, imm` (R88): source2 is the zero-extended immediate. -/
def execXori (rt rs : Reg) (imm : Half) (s : State) : Result :=
  s.activate rs rt fun inp => bothSources (iTypeSlots rt rs imm inp) fun a b => a ^^^ b

/-- `lui rt, imm` (R89): port S is read and not used. -/
def execLui (rt rs : Reg) (imm : Half) (s : State) : Result :=
  s.activate rs rt fun inp => secondSource (iTypeSlots rt rs imm inp) fun _ => upperImm imm

end Sys2Proof.Machine
end

