-- ==== Sys2Proof/Machine/Shift.lean ====
section
/-! DEFINITION. The shift instructions (spec 40_logical_shift.md R90 to R97). -/

namespace Sys2Proof.Machine

/-- `sll rd, rt, sa` (R91, R90): shifts source2 by the shamt field; port S is read and not used. -/
def execSll (rd rs rt : Reg) (sa : Shamt) (s : State) : Result :=
  s.activate rs rt fun inp => secondSource (rTypeSlots rd rs rt inp) fun b => b <<< sa.toNat

/-- `sra rd, rt, sa` (R92, R90): shifts source2 by the shamt field; port S is read and not used. -/
def execSra (rd rs rt : Reg) (sa : Shamt) (s : State) : Result :=
  s.activate rs rt fun inp => secondSource (rTypeSlots rd rs rt inp) fun b => b.sshiftRight sa.toNat

/-- `srl rd, rt, sa` (R93, R90): shifts source2 by the shamt field; port S is read and not used. -/
def execSrl (rd rs rt : Reg) (sa : Shamt) (s : State) : Result :=
  s.activate rs rt fun inp => secondSource (rTypeSlots rd rs rt inp) fun b => b >>> sa.toNat

/-- `sllv rd, rt, rs` (R95, roles by R94). -/
def execSllv (rd rs rt : Reg) (_sa : Shamt) (s : State) : Result :=
  s.activate rs rt fun inp =>
    variableShift (rTypeSlots rd rs rt inp) inp.cfg.varShiftRoles fun a n => a <<< n

/-- `srav rd, rt, rs` (R96, roles by R94). -/
def execSrav (rd rs rt : Reg) (_sa : Shamt) (s : State) : Result :=
  s.activate rs rt fun inp =>
    variableShift (rTypeSlots rd rs rt inp) inp.cfg.varShiftRoles fun a n => a.sshiftRight n

/-- `srlv rd, rt, rs` (R97, roles by R94). -/
def execSrlv (rd rs rt : Reg) (_sa : Shamt) (s : State) : Result :=
  s.activate rs rt fun inp =>
    variableShift (rTypeSlots rd rs rt inp) inp.cfg.varShiftRoles fun a n => a >>> n

end Sys2Proof.Machine
end

