-- ==== Sys2Proof/Machine/Dispatch.lean ====
section
/-! DEFINITION. One activation of the block for each instruction (spec 10_state.md R24): an arm per row of
spec/opcode_table.json. -/

namespace Sys2Proof.Machine

def exec (i : Instr) (s : State) : Host.Outcome State Fault Refusal :=
  match i with
  | .and rd rs rt sa => Sys2Proof.Machine.execAnd rd rs rt sa s
  | .or rd rs rt sa => Sys2Proof.Machine.execOr rd rs rt sa s
  | .nor rd rs rt sa => Sys2Proof.Machine.execNor rd rs rt sa s
  | .xor rd rs rt sa => Sys2Proof.Machine.execXor rd rs rt sa s
  | .sll rd rs rt sa => Sys2Proof.Machine.execSll rd rs rt sa s
  | .sra rd rs rt sa => Sys2Proof.Machine.execSra rd rs rt sa s
  | .srl rd rs rt sa => Sys2Proof.Machine.execSrl rd rs rt sa s
  | .sllv rd rs rt sa => Sys2Proof.Machine.execSllv rd rs rt sa s
  | .srav rd rs rt sa => Sys2Proof.Machine.execSrav rd rs rt sa s
  | .srlv rd rs rt sa => Sys2Proof.Machine.execSrlv rd rs rt sa s
  | .andi rt rs imm => Sys2Proof.Machine.execAndi rt rs imm s
  | .ori rt rs imm => Sys2Proof.Machine.execOri rt rs imm s
  | .xori rt rs imm => Sys2Proof.Machine.execXori rt rs imm s
  | .lui rt rs imm => Sys2Proof.Machine.execLui rt rs imm s
  | .addi rt rs imm => Sys2Proof.Machine.execAddi rt rs imm s
  | .addiu rt rs imm => Sys2Proof.Machine.execAddiu rt rs imm s
  | .slti rt rs imm => Sys2Proof.Machine.execSlti rt rs imm s
  | .sltiu rt rs imm => Sys2Proof.Machine.execSltiu rt rs imm s
  | .beq rs rt imm => Sys2Proof.Machine.execBeq rs rt imm s
  | .bne rs rt imm => Sys2Proof.Machine.execBne rs rt imm s
  | .blez rs rt imm => Sys2Proof.Machine.execBlez rs rt imm s
  | .bgtz rs rt imm => Sys2Proof.Machine.execBgtz rs rt imm s
  | .bltz rs imm => Sys2Proof.Machine.execBltz rs imm s
  | .bgez rs imm => Sys2Proof.Machine.execBgez rs imm s
  | .bltzal rs imm => Sys2Proof.Machine.execBltzal rs imm s
  | .bgezal rs imm => Sys2Proof.Machine.execBgezal rs imm s

end Sys2Proof.Machine
end

