-- ==== Sys2Proof/Machine/Sequencer.lean ====
section
/-! DEFINITION. The outside sequencer (spec 70_reset_and_hazards.md R164): its fetch, and what it does with the PC after
an activation under each policy `HARNESS` can name (92_eei_decisions.md D9). It is no part of the block. -/

namespace Sys2Proof.Machine

/-- The byte the harness fetches at an address: nothing placed there is a fault (log 7). -/
def State.fetchByte (s : State) (a : Word) : Except Fault Byte :=
  match Memory.read s.mem a.toNat with
  | some b => .ok b
  | none => .error (.unplacedFetch a)

/-- The 32-bit word at an address, in the byte order ENDIAN (20_memory.md R43). -/
def State.fetchWordAt (s : State) (a : Word) : Except Fault Word :=
  match s.fetchByte a, s.fetchByte (a + 1), s.fetchByte (a + 2), s.fetchByte (a + 3) with
  | .ok b0, .ok b1, .ok b2, .ok b3 => .ok (assembleWord s.cfg.endian b0 b1 b2 b3)
  | .error f, _, _, _ => .error f
  | _, .error f, _, _ => .error f
  | _, _, .error f, _ => .error f
  | _, _, _, .error f => .error f

/-- The address is a multiple of 4 (20_memory.md R44). -/
def aligned (a : Word) : Bool :=
  a.extractLsb' 0 2 == 0

/-- The harness's fetch (R164): a misaligned PC is a fault, before memory is looked at. -/
def State.fetch (s : State) : Except Fault Word :=
  if aligned s.pc then s.fetchWordAt s.pc else .error (.misalignedFetch s.pc)

/-- `ADVANCE_IF_NOT_WRITTEN` (R164): 4 is added to the PC only when the block wrote none. -/
def State.advanceIfNotWritten (s : State) : State :=
  match s.out.pcWrite with
  | none => { s with pc := s.pc + 4 }
  | some _ => s

/-- `EXEC_DELAY_SLOT` (42_branch.md R126; log 16) after the activation of the instruction at `address`: a branch target
that was waiting is where execution goes on, else the next address; the block's branch write waits for the next
instruction. A trap lands on the trap-entry address at once (D9's reason), and nothing waits any more. -/
def State.advanceDelaySlot (s : State) (address : Word) : State :=
  if s.out.trap then { s with delayed := none }
  else { s with pc := s.delayed.getD (address + 4), delayed := s.out.pcWrite }

/-- A policy D9 leaves OPEN (log 17): the PC is a free value. -/
def State.advanceOther (s : State) (policy : Nat) (address : Word) : State :=
  { s with pc := Config.freeNextPc policy s.turn address s.out.pcWrite s.out.trap, turn := s.turn + 1 }

/-- What the sequencer does with the PC after the committed activation of the instruction at `address`, by the
parameter `HARNESS` (00_scope.md R8). -/
def State.advance (s : State) (address : Word) : State :=
  match s.cfg.harness with
  | .advanceIfNotWritten => s.advanceIfNotWritten
  | .execDelaySlot => s.advanceDelaySlot address
  | .otherPolicy n => s.advanceOther n address

/-- The sequencer's answer to the activation of the instruction at `address`: the advance after a commit, the same stop
otherwise (R164). -/
def advanceResult (address : Word) (r : Result) : Result :=
  match r with
  | .next t => .next (t.advance address)
  | .fault f => .fault f
  | .refused x => .refused x

/-- The harness's answer to a word that selects no handler (R63, R164). -/
def refuseUnrouted (w : Word) : Result :=
  .refused (.notRouted w)

end Sys2Proof.Machine
end

