-- ==== Sys2Proof/Machine/Step.lean ====
section
/-! DEFINITION. One turn of the outside sequencer (spec 70_reset_and_hazards.md R164): fetch, one activation, advance. -/

namespace Sys2Proof.Machine

/-- One step of the machine (R164). -/
def step (s : State) : Host.Outcome State Fault Refusal :=
  match s.fetch with
  | .error f => .fault f
  | .ok w =>
    match decode w with
    | .error _ => refuseUnrouted w
    | .ok i => advanceResult s.pc (exec i s)

/-- `s` with the instruction word `w` (numbered as spec/opcode_table.json numbers it) placed as program text where the
next fetch reads, the PC, in the byte order of the state. An instruction is one word, so `nbits` is always 32 and bits
above it are 0. -/
def State.withFetchWord (s : State) (_nbits w : Nat) : State :=
  s.placeWord s.pc (BitVec.ofNat 32 w)

end Sys2Proof.Machine
end

