-- ==== Sys2Proof/Machine/Pseudo.lean ====
section
/-! DEFINITION. The pseudo-instructions of spec 30_encoding.md R67: expansions into the block's own instructions. They
add nothing to the machine. `b`, `bal`, `beqz` and `bnez` need register 0 to read 0 (R0_HARDWIRED). -/

namespace Sys2Proof.Machine

/-- `nop`: `sll $zero, $zero, 0`, the word 0x00000000. -/
def Pseudo.nop : List Instr := [.sll 0 0 0 0]
/-- `move rd, rs`: `or rd, rs, $zero`. -/
def Pseudo.move (rd rs : Reg) : List Instr := [.or rd rs 0 0]
/-- `not rd, rs`: `nor rd, rs, $zero`. -/
def Pseudo.not (rd rs : Reg) : List Instr := [.nor rd rs 0 0]
/-- `li rt, v`: one instruction where 16 bits give `v` by sign or zero extension, else `lui` and `ori`. -/
def Pseudo.li (rt : Reg) (v : Word) : List Instr :=
  if sext32 (v.extractLsb' 0 16) = v then [.addiu rt 0 (v.extractLsb' 0 16)]
  else if zext32 (v.extractLsb' 0 16) = v then [.ori rt 0 (v.extractLsb' 0 16)]
  else [.lui rt 0 (v.extractLsb' 16 16), .ori rt rt (v.extractLsb' 0 16)]
/-- `b off`: `beq $zero, $zero, off`. -/
def Pseudo.b (off : Half) : List Instr := [.beq 0 0 off]
/-- `bal off`: `bgezal $zero, off`. -/
def Pseudo.bal (off : Half) : List Instr := [.bgezal 0 off]
/-- `beqz rs, off`: `beq rs, $zero, off`. -/
def Pseudo.beqz (rs : Reg) (off : Half) : List Instr := [.beq rs 0 off]
/-- `bnez rs, off`: `bne rs, $zero, off`. -/
def Pseudo.bnez (rs : Reg) (off : Half) : List Instr := [.bne rs 0 off]

/-- The activations of an expansion that does not branch, one after the other, each followed by the harness's advance. -/
def Pseudo.run (is : List Instr) (s : State) : Result :=
  match is with
  | [] => .next s
  | i :: rest =>
    match advanceResult s.pc (exec i s) with
    | .next t => Pseudo.run rest t
    | .fault f => .fault f
    | .refused r => .refused r

end Sys2Proof.Machine
end

