-- ==== Sys2Proof/Safety.lean ====
section
/-! DEFINITION. The terms claims about the machine are stated in: outcomes of an activation, which ports an instruction
uses, what a commit may change, the machine's invariant, safe steps and the end of a run. -/

namespace Sys2Proof.Machine

/-- The five outcomes of an activation (spec 60_exceptions.md R141). -/
inductive ActivationOutcome where
  | commit
  | trap
  | suppressed
  | notRouted
  | fault
deriving DecidableEq, Repr

/-- Which outcome an activation had (10_state.md R26, 60_exceptions.md R141). -/
def outcomeOf (r : Result) : ActivationOutcome :=
  match r with
  | .next t =>
    match t.out.decision with
    | .commit => .commit
    | .trap => .trap
    | .suppressed => .suppressed
  | .fault _ => .fault
  | .refused _ => .notRouted

end Sys2Proof.Machine

namespace Sys2Proof

/-- The handler uses port S (40_logical_shift.md R82 to R97, 41_imm_arith.md R101, 42_branch.md R121). -/
def Handler.usesS (h : Handler) : Bool :=
  match h with
  | .sll | .sra | .srl | .lui => false
  | .and | .or | .nor | .xor | .sllv | .srav | .srlv => true
  | .andi | .ori | .xori | .addi | .addiu | .slti | .sltiu => true
  | .beq | .bne | .blez | .bgtz | .bltz | .bgez | .bltzal | .bgezal => true

/-- The handler uses port T (40_logical_shift.md R82 to R97, 42_branch.md R121). -/
def Handler.usesT (h : Handler) : Bool :=
  match h with
  | .and | .or | .nor | .xor | .sll | .sra | .srl | .sllv | .srav | .srlv | .beq | .bne => true
  | .andi | .ori | .xori | .lui | .addi | .addiu | .slti | .sltiu => false
  | .blez | .bgtz | .bltz | .bgez | .bltzal | .bgezal => false

/-- The register the instruction may write (10_state.md R15, R27). -/
def Instr.destination (i : Instr) : Option Reg :=
  match i with
  | .and rd _ _ _ | .or rd _ _ _ | .nor rd _ _ _ | .xor rd _ _ _ => some rd
  | .sll rd _ _ _ | .sra rd _ _ _ | .srl rd _ _ _ => some rd
  | .sllv rd _ _ _ | .srav rd _ _ _ | .srlv rd _ _ _ => some rd
  | .andi rt _ _ | .ori rt _ _ | .xori rt _ _ | .lui rt _ _ => some rt
  | .addi rt _ _ | .addiu rt _ _ | .slti rt _ _ | .sltiu rt _ _ => some rt
  | .beq _ _ _ | .bne _ _ _ | .blez _ _ _ | .bgtz _ _ _ | .bltz _ _ | .bgez _ _ => none
  | .bltzal _ _ | .bgezal _ _ => some 31

/-- The offset field of a conditional branch or branch-and-link (42_branch.md R121). -/
def Instr.branchImm (i : Instr) : Option Half :=
  match i with
  | .beq _ _ imm | .bne _ _ imm | .blez _ _ imm | .bgtz _ _ imm => some imm
  | .bltz _ imm | .bgez _ imm | .bltzal _ imm | .bgezal _ imm => some imm
  | .and _ _ _ _ | .or _ _ _ _ | .nor _ _ _ _ | .xor _ _ _ _ => none
  | .sll _ _ _ _ | .sra _ _ _ _ | .srl _ _ _ _ | .sllv _ _ _ _ | .srav _ _ _ _ | .srlv _ _ _ _ => none
  | .andi _ _ _ | .ori _ _ _ | .xori _ _ _ | .lui _ _ _ => none
  | .addi _ _ _ | .addiu _ _ _ | .slti _ _ _ | .sltiu _ _ _ => none

end Sys2Proof

namespace Sys2Proof.Machine

/-- The document's overflow condition (41_imm_arith.md R103): "(source1 positive AND immediate positive AND result
negative) OR (source1 negative AND immediate negative AND result positive)". -/
def SignsOverflow (a b sum : Word) : Prop :=
  (0 < a.toInt ∧ 0 < b.toInt ∧ sum.toInt < 0) ∨ (a.toInt < 0 ∧ b.toInt < 0 ∧ 0 < sum.toInt)

/-- The parameters, the program text and the CP0 fields are the same in both states. -/
structure SameOutside (s t : State) : Prop where
  cfg : t.cfg = s.cfg
  mem : ∀ a, Memory.read t.mem a = Memory.read s.mem a
  exl : t.exl = s.exl
  excCode : t.excCode = s.excCode
  epc : t.epc = s.epc

/-- The outside sequencer's own state is the same in both states: no activation touches it (42_branch.md R126). -/
structure SameSequencer (s t : State) : Prop where
  delayed : t.delayed = s.delayed
  turn : t.turn = s.turn

/-- `t` is `s` after an activation that committed exactly this register write and this PC write (10_state.md R27,
R28): every register reads as before but the one written (a write to a hard-wired register 0 is discarded, R14), the
PC is the one written or else as before, and nothing outside the signals themselves changes. -/
structure CommitsExactly (s t : State) (gprWrite : Option (Reg × Word)) (pcWrite : Option Word) : Prop where
  written : ∀ d v, gprWrite = some (d, v) → s.hardwired d = false → t.readGpr d = some v
  kept : ∀ r, (∀ d v, gprWrite = some (d, v) → d = r → s.hardwired d = true) → t.readGpr r = s.readGpr r
  pc : t.pc = pcWrite.getD s.pc
  outside : SameOutside s t
  sequencer : SameSequencer s t
  signals : t.out = { gprWrite := gprWrite, pcWrite := pcWrite, trap := false, decision := .commit }

/-- `t` is `s` after a trap was entered (60_exceptions.md R144): the cause, EPC, the PC and EXL are written, every
register keeps its value and nothing else changes but the signals. -/
structure TrapEntered (s t : State) : Prop where
  kept : ∀ r, t.readGpr r = s.readGpr r
  excCode : t.excCode = s.cfg.ovExcCode
  epc : t.epc = s.pc
  pc : t.pc = s.cfg.trapAddr
  exl : t.exl = true
  cfg : t.cfg = s.cfg
  mem : ∀ a, Memory.read t.mem a = Memory.read s.mem a
  sequencer : SameSequencer s t
  signals : t.out = { gprWrite := none, pcWrite := some s.cfg.trapAddr, trap := true, decision := .trap }

/-- `t` is `s` after a suppressed overflow (60_exceptions.md R145): nothing is written but the signals. -/
structure WritesNothing (s t : State) : Prop where
  kept : ∀ r, t.readGpr r = s.readGpr r
  pc : t.pc = s.pc
  outside : SameOutside s t
  sequencer : SameSequencer s t
  signals : t.out = { gprWrite := none, pcWrite := none, trap := false, decision := .suppressed }

/-- The invariant of the machine: the program text is in canonical form; a hard-wired register 0 holds 0 and an
unwritten register no other value than 0; a waiting branch target (log 16) is a multiple of 4, and so is the PC, under a
policy the spec names (logs 16, 17), if the trap-entry address is; a trap just taken left EXL set. -/
structure State.Inv (s : State) : Prop where
  text : Memory.wf s.mem = true
  zero : s.cfg.r0Hardwired = true → s.gpr[0] = 0
  unwritten : ∀ i : Fin 32, s.written[i] = false → s.gpr[i] = 0
  alignedDelayed : ∀ a, s.delayed = some a → aligned a = true
  alignedPc : s.cfg.harness.named = true → aligned s.cfg.trapAddr = true → aligned s.pc = true
  trapped : s.out.trap = true → s.exl = true

/-- A safe step: neither a fault nor a refusal. -/
def Safe (s : State) : Prop :=
  ∃ t, step s = .next t

/-- How a run to a stop address ends (70_reset_and_hazards.md R165). -/
inductive RunEnd where
  /-- The harness is about to fetch at `STOP`: the run has ended in this state. -/
  | ended (s : State)
  /-- A fault, which is never a final state. -/
  | fault (f : Fault)
  /-- A refusal, which is never a final state. -/
  | refused (r : Refusal)
  /-- `STOP` not reached within the given number of steps. -/
  | running (s : State)
deriving DecidableEq, Repr

/-- Run to the stop address, at most `n` steps (70_reset_and_hazards.md R165). -/
def runTo (stop : Word) (n : Nat) (s : State) : RunEnd :=
  if s.pc = stop then .ended s
  else
    match n with
    | 0 => .running s
    | n + 1 =>
      match step s with
      | .next t => runTo stop n t
      | .fault f => .fault f
      | .refused r => .refused r

end Sys2Proof.Machine
end

