-- ==== Sys2Proof/Certificates/Slice0/Obligations.lean ====
section
/-! DEFINITION. The statements for the provers. Each docstring names the rules of the spec it formalises; a statement
that rests on a choice of the model names its log entry. -/

open Sys2Proof Sys2Proof.Machine

/-- For every instruction, with every operand field (the ignored ones among them) at every value, encode gives a
well-formed word and decode of that word answers exactly that instruction; the same through the byte decoder in
either byte order, which consumes exactly the four bytes. The selector values are the spec's general-knowledge
values (log 14). (30_encoding.md section 1 (R51), 30_encoding.md section 4 (R62), opcode_table.json) -/
def Obligations.DecodeOfEncodeIsIdentity : Prop :=
  ∀ i : Instr, WordWellFormed (encode i) = true ∧ decode (encode i) = .ok i ∧
    ∀ (e : Endian) (rest : List Byte), decodeBytes e (encodeBytes e i ++ rest) = .ok (i, rest)

/-- If a word decodes to an instruction, encoding the instruction gives that very word: no bit of a word is lost and no
two words decode to one instruction. (30_encoding.md section 1 (R51, R53), 30_encoding.md section 4 (R62, R64)) -/
def Obligations.EncodeOfDecodeIsIdentity : Prop :=
  ∀ (w : Word) (i : Instr), decode w = .ok i → encode i = w

/-- select answers handler h for a word exactly when the word masked by the mask column of h's row of
spec/opcode_table.json is the row's match column. In particular no word matches two rows. (30_encoding.md section 4
(R61, R62, R64), opcode_table.json) -/
def Obligations.SelectAgreesWithOpcodeTable : Prop :=
  ∀ (w : Word) (h : Handler), select w = some h ↔ w &&& h.mask = h.pattern

/-- For every word, opcode, rs, rt, rd, shamt, funct and imm are the word shifted right by 26, 21, 16, 11, 6, 0 and 0
bits and masked by 0x3F, 0x1F, 0x1F, 0x1F, 0x1F, 0x3F and 0xFFFF. (R52) -/
def Obligations.FieldsAreMaskedShifts : Prop :=
  ∀ w : Word,
    (Field.opcode w).setWidth 32 = (w >>> 26) &&& 0x3F ∧ (Field.rs w).setWidth 32 = (w >>> 21) &&& 0x1F ∧
    (Field.rt w).setWidth 32 = (w >>> 16) &&& 0x1F ∧ (Field.rd w).setWidth 32 = (w >>> 11) &&& 0x1F ∧
    (Field.shamt w).setWidth 32 = (w >>> 6) &&& 0x1F ∧ (Field.funct w).setWidth 32 = w &&& 0x3F ∧
    (Field.imm w).setWidth 32 = w &&& 0xFFFF

/-- For every 16-bit pattern p, sext32 p is 0xFFFF concatenated with p if bit 15 of p is set and 0x0000 concatenated
with p otherwise; zext32 p is 0x0000 concatenated with p, and that is the resolved value the I-type decoder gives
source2. (R58, R59) -/
def Obligations.ImmediatesExtendBySignOrZero : Prop :=
  ∀ p : Half, sext32 p = (if p.getLsbD 15 then 0xFFFF#16 ++ p else 0x0000#16 ++ p) ∧ zext32 p = 0x0000#16 ++ p ∧
    ∀ (rt rs : Reg) (inp : Inputs), (iTypeSlots rt rs p inp).source2 = .immediate p (0x0000#16 ++ p)

/-- In every state the activation of an instruction answers what the activation of the same instruction with the fields
R64 ignores set to 0 answers (the same next state, or the same fault). (30_encoding.md section 4 (R64, R65)) -/
def Obligations.IgnoredFieldsHaveNoEffect : Prop :=
  ∀ (i : Instr) (s : State), exec i s = exec i.clearIgnored s

/-- The example words 0x01095024, 0x3C091234, 0x00095103, 0x01095004, 0x2109FFFF, 0x2D09FFFF, 0x11090004, 0x1D000003 and
0x05110003 decode to the instructions the spec's examples name. (40_logical_shift.md sections 2 to 5 (examples),
41_imm_arith.md section 3 (examples), 42_branch.md section 2 (examples)) -/
def Obligations.SampleWordsDecode : Prop :=
  decode 0x01095024 = .ok (.and 10 8 9 0) ∧ decode 0x3C091234 = .ok (.lui 9 0 0x1234) ∧
    decode 0x00095103 = .ok (.sra 10 0 9 4) ∧ decode 0x01095004 = .ok (.sllv 10 8 9 0) ∧
    decode 0x2109FFFF = .ok (.addi 9 8 0xFFFF) ∧ decode 0x2D09FFFF = .ok (.sltiu 9 8 0xFFFF) ∧
    decode 0x11090004 = .ok (.beq 8 9 0x0004) ∧ decode 0x1D000003 = .ok (.bgtz 8 0 0x0003) ∧
    decode 0x05110003 = .ok (.bgezal 8 0x0003)

/-- When the word fetched at the PC decodes to an instruction i, step answers the fault or refusal of exec i, or its
next state with the PC advance of the policy. Under ADVANCE_IF_NOT_WRITTEN 4 is added exactly when the activation
wrote no PC. Under EXEC_DELAY_SLOT (the model's reading, log 16) a trap stays at TRAP_ADDR and drops a waiting
target; otherwise the PC is the waiting target if there is one, else the next address, and what the activation wrote
to the PC waits. Under any other policy the PC is a free value (log 17) and the statement holds for every value of
it. (70_reset_and_hazards.md section 2 (R164), 42_branch.md section 1 (R126), 92_eei_decisions.md D9) -/
def Obligations.StepRunsDecodedInstruction : Prop :=
  ∀ (s : State) (w : Word) (i : Instr), s.fetch = .ok w → decode w = .ok i →
    step s = match exec i s with
      | .next t => .next (match s.cfg.harness with
        | .advanceIfNotWritten => if t.out.pcWrite = none then { t with pc := t.pc + 4 } else t
        | .execDelaySlot => if t.out.trap = true then { t with delayed := none }
            else { t with pc := s.delayed.getD (s.pc + 4), delayed := t.out.pcWrite }
        | .otherPolicy n => { t with
            pc := Config.freeNextPc n s.turn s.pc t.out.pcWrite t.out.trap
            turn := s.turn + 1 })
      | .fault f => .fault f
      | .refused r => .refused r

/-- If the word fetched at the PC carries the selectors of no row of the opcode table, step answers the refusal
notRouted of that word, whatever the registers hold. (30_encoding.md section 4 (R63), 60_exceptions.md section 1
(R141, R147), 70_reset_and_hazards.md section 2 (R164)) -/
def Obligations.UnroutedWordIsRefused : Prop :=
  ∀ (s : State) (w : Word), s.fetch = .ok w → (∀ h : Handler, w &&& h.mask ≠ h.pattern) →
    step s = .refused (.notRouted w)

/-- If the PC is not a multiple of 4, step answers the fault misalignedFetch with that PC. (20_memory.md section 1
(R44), 70_reset_and_hazards.md section 2 (R164)) -/
def Obligations.MisalignedPcFaults : Prop :=
  ∀ s : State, s.pc.toNat % 4 ≠ 0 → step s = .fault (.misalignedFetch s.pc)

/-- In every state with a PC that is a multiple of 4, after a word is placed where the next fetch reads, the fetch
yields that word; every other byte of the text, and every other field of the state, is as before. The byte order is
the parameter ENDIAN (log 8). (20_memory.md section 1 (R42, R43), 70_reset_and_hazards.md sections 1 and 2 (R161,
R164)) -/
def Obligations.PlacedWordIsFetched : Prop :=
  ∀ (s : State) (w : Word), s.pc.toNat % 4 = 0 →
    (s.withFetchWord 32 w.toNat).fetch = .ok w ∧
    (∀ a, (a < s.pc.toNat ∨ s.pc.toNat + 4 ≤ a) →
      Memory.read (s.withFetchWord 32 w.toNat).mem a = Memory.read s.mem a) ∧
    s.withFetchWord 32 w.toNat = { s with mem := (s.withFetchWord 32 w.toNat).mem }

/-- At a PC that is a multiple of 4 whose four bytes are placed, the fetch yields the word whose most significant byte
is the first of them for big and the last of them for little; where one of the four is not placed, step answers the
fault unplacedFetch of the first address that is missing (the model's choice, log 7). (20_memory.md section 1 (R42,
R43), 70_reset_and_hazards.md section 2 (R164)) -/
def Obligations.FetchAssemblesFourBytes : Prop :=
  ∀ s : State, s.pc.toNat % 4 = 0 →
    (∀ b0 b1 b2 b3 : Byte, Memory.read s.mem s.pc.toNat = some b0 → Memory.read s.mem (s.pc.toNat + 1) = some b1 →
      Memory.read s.mem (s.pc.toNat + 2) = some b2 → Memory.read s.mem (s.pc.toNat + 3) = some b3 →
      s.fetch = .ok (if s.cfg.endian = .big then b0 ++ b1 ++ b2 ++ b3 else b3 ++ b2 ++ b1 ++ b0)) ∧
    (∀ k : Nat, k < 4 → (∀ j : Nat, j < k → Memory.read s.mem (s.pc.toNat + j) ≠ none) →
      Memory.read s.mem (s.pc.toNat + k) = none → step s = .fault (.unplacedFetch (s.pc + BitVec.ofNat 32 k)))

/-- With GPR[rs] and GPR[rt] readable, and answers a next state in which rd holds the bitwise AND of GPR[rs] and
GPR[rt]. Every other register, the PC, the CP0 fields, the parameters and every byte of the text are unchanged; a
write to a hard-wired register 0 is discarded. Also: every word with the row's selector bits decodes to this
instruction with its fields. (R82) -/
def Obligations.AndWritesConjunction : Prop :=
  (∀ w : Word, w &&& 0xFC00003F = 0x00000024 →
      decode w = .ok (.and (Field.rd w) (Field.rs w) (Field.rt w) (Field.shamt w))) ∧
  ∀ (s : State) (rd rs rt : Reg) (sa : Shamt) (a b : Word), s.readGpr rs = some a → s.readGpr rt = some b →
    ∃ t, exec (.and rd rs rt sa) s = .next t ∧ CommitsExactly s t (some (rd, a &&& b)) none

/-- With GPR[rs] and GPR[rt] readable, or answers a next state in which rd holds the bitwise OR of GPR[rs] and GPR[rt].
Every other register, the PC, the CP0 fields, the parameters and every byte of the text are unchanged; a write to a
hard-wired register 0 is discarded. Also: every word with the row's selector bits decodes to this instruction with
its fields. (R83) -/
def Obligations.OrWritesDisjunction : Prop :=
  (∀ w : Word, w &&& 0xFC00003F = 0x00000025 →
      decode w = .ok (.or (Field.rd w) (Field.rs w) (Field.rt w) (Field.shamt w))) ∧
  ∀ (s : State) (rd rs rt : Reg) (sa : Shamt) (a b : Word), s.readGpr rs = some a → s.readGpr rt = some b →
    ∃ t, exec (.or rd rs rt sa) s = .next t ∧ CommitsExactly s t (some (rd, a ||| b)) none

/-- With GPR[rs] and GPR[rt] readable, nor answers a next state in which rd holds the bitwise NOT of the OR of GPR[rs]
and GPR[rt]. Every other register, the PC, the CP0 fields, the parameters and every byte of the text are unchanged;
a write to a hard-wired register 0 is discarded. Also: every word with the row's selector bits decodes to this
instruction with its fields. (R84) -/
def Obligations.NorWritesNegatedDisjunction : Prop :=
  (∀ w : Word, w &&& 0xFC00003F = 0x00000027 →
      decode w = .ok (.nor (Field.rd w) (Field.rs w) (Field.rt w) (Field.shamt w))) ∧
  ∀ (s : State) (rd rs rt : Reg) (sa : Shamt) (a b : Word), s.readGpr rs = some a → s.readGpr rt = some b →
    ∃ t, exec (.nor rd rs rt sa) s = .next t ∧ CommitsExactly s t (some (rd, ~~~(a ||| b))) none

/-- With GPR[rs] and GPR[rt] readable, xor answers a next state in which rd holds the exclusive OR of GPR[rs] and
GPR[rt]. Every other register, the PC, the CP0 fields, the parameters and every byte of the text are unchanged; a
write to a hard-wired register 0 is discarded. Also: every word with the row's selector bits decodes to this
instruction with its fields. (R85) -/
def Obligations.XorWritesExclusiveOr : Prop :=
  (∀ w : Word, w &&& 0xFC00003F = 0x00000026 →
      decode w = .ok (.xor (Field.rd w) (Field.rs w) (Field.rt w) (Field.shamt w))) ∧
  ∀ (s : State) (rd rs rt : Reg) (sa : Shamt) (a b : Word), s.readGpr rs = some a → s.readGpr rt = some b →
    ∃ t, exec (.xor rd rs rt sa) s = .next t ∧ CommitsExactly s t (some (rd, a ^^^ b)) none

/-- With GPR[rt] readable (the rs field is ignored), sll answers a next state in which rd holds GPR[rt] shifted left by
sa, zero-filled. Every other register, the PC, the CP0 fields, the parameters and every byte of the text are
unchanged; a write to a hard-wired register 0 is discarded. Also: every word with the row's selector bits decodes to
this instruction with its fields. (R91) -/
def Obligations.SllShiftsLeftByConstant : Prop :=
  (∀ w : Word, w &&& 0xFC00003F = 0x00000000 →
      decode w = .ok (.sll (Field.rd w) (Field.rs w) (Field.rt w) (Field.shamt w))) ∧
  ∀ (s : State) (rd rs rt : Reg) (sa : Shamt) (b : Word), s.readGpr rt = some b →
    ∃ t, exec (.sll rd rs rt sa) s = .next t ∧ CommitsExactly s t (some (rd, b <<< sa.toNat)) none

/-- With GPR[rt] readable (the rs field is ignored), sra answers a next state in which rd holds GPR[rt] shifted right by
sa with copies of bit 31. Every other register, the PC, the CP0 fields, the parameters and every byte of the text
are unchanged; a write to a hard-wired register 0 is discarded. Also: every word with the row's selector bits
decodes to this instruction with its fields. (R92) -/
def Obligations.SraShiftsRightKeepingSign : Prop :=
  (∀ w : Word, w &&& 0xFC00003F = 0x00000003 →
      decode w = .ok (.sra (Field.rd w) (Field.rs w) (Field.rt w) (Field.shamt w))) ∧
  ∀ (s : State) (rd rs rt : Reg) (sa : Shamt) (b : Word), s.readGpr rt = some b →
    ∃ t, exec (.sra rd rs rt sa) s = .next t ∧ CommitsExactly s t (some (rd, b.sshiftRight sa.toNat)) none

/-- With GPR[rt] readable (the rs field is ignored), srl answers a next state in which rd holds GPR[rt] shifted right by
sa, zero-filled. Every other register, the PC, the CP0 fields, the parameters and every byte of the text are
unchanged; a write to a hard-wired register 0 is discarded. Also: every word with the row's selector bits decodes to
this instruction with its fields. (R93) -/
def Obligations.SrlShiftsRightZeroFilling : Prop :=
  (∀ w : Word, w &&& 0xFC00003F = 0x00000002 →
      decode w = .ok (.srl (Field.rd w) (Field.rs w) (Field.rt w) (Field.shamt w))) ∧
  ∀ (s : State) (rd rs rt : Reg) (sa : Shamt) (b : Word), s.readGpr rt = some b →
    ∃ t, exec (.srl rd rs rt sa) s = .next t ∧ CommitsExactly s t (some (rd, b >>> sa.toNat)) none

/-- With GPR[rs] and GPR[rt] readable, sllv answers a next state in which rd holds, under DOC, GPR[rs] shifted by
GPR[rt] mod 32 and, under MIPS32, GPR[rt] shifted by GPR[rs] mod 32. Every other register, the PC, the CP0 fields,
the parameters and every byte of the text are unchanged; a write to a hard-wired register 0 is discarded. Also:
every word with the row's selector bits decodes to this instruction with its fields. The mask to five bits and the
roles are the spec's own decisions (D4, D5; log 12). (40_logical_shift.md section 5 (R94, R95), 92_eei_decisions.md
D4, D5) -/
def Obligations.SllvShiftsLeftByRegister : Prop :=
  (∀ w : Word, w &&& 0xFC00003F = 0x00000004 →
      decode w = .ok (.sllv (Field.rd w) (Field.rs w) (Field.rt w) (Field.shamt w))) ∧
  ∀ (s : State) (rd rs rt : Reg) (sa : Shamt) (a b : Word), s.readGpr rs = some a → s.readGpr rt = some b →
    ∃ t, exec (.sllv rd rs rt sa) s = .next t ∧
      CommitsExactly s t (some (rd, match s.cfg.varShiftRoles with
        | .doc => a <<< (b.toNat % 32)
        | .mips32 => b <<< (a.toNat % 32))) none

/-- With GPR[rs] and GPR[rt] readable, srav answers a next state in which rd holds, under DOC, GPR[rs] shifted by
GPR[rt] mod 32 and, under MIPS32, GPR[rt] shifted by GPR[rs] mod 32. Every other register, the PC, the CP0 fields,
the parameters and every byte of the text are unchanged; a write to a hard-wired register 0 is discarded. Also:
every word with the row's selector bits decodes to this instruction with its fields. The mask to five bits and the
roles are the spec's own decisions (D4, D5; log 12). (40_logical_shift.md section 5 (R94, R96), 92_eei_decisions.md
D4, D5) -/
def Obligations.SravShiftsRightKeepingSignByRegister : Prop :=
  (∀ w : Word, w &&& 0xFC00003F = 0x00000007 →
      decode w = .ok (.srav (Field.rd w) (Field.rs w) (Field.rt w) (Field.shamt w))) ∧
  ∀ (s : State) (rd rs rt : Reg) (sa : Shamt) (a b : Word), s.readGpr rs = some a → s.readGpr rt = some b →
    ∃ t, exec (.srav rd rs rt sa) s = .next t ∧
      CommitsExactly s t (some (rd, match s.cfg.varShiftRoles with
        | .doc => a.sshiftRight (b.toNat % 32)
        | .mips32 => b.sshiftRight (a.toNat % 32))) none

/-- With GPR[rs] and GPR[rt] readable, srlv answers a next state in which rd holds, under DOC, GPR[rs] shifted by
GPR[rt] mod 32 and, under MIPS32, GPR[rt] shifted by GPR[rs] mod 32. Every other register, the PC, the CP0 fields,
the parameters and every byte of the text are unchanged; a write to a hard-wired register 0 is discarded. Also:
every word with the row's selector bits decodes to this instruction with its fields. The mask to five bits and the
roles are the spec's own decisions (D4, D5; log 12). (40_logical_shift.md section 5 (R94, R97), 92_eei_decisions.md
D4, D5) -/
def Obligations.SrlvShiftsRightZeroFillingByRegister : Prop :=
  (∀ w : Word, w &&& 0xFC00003F = 0x00000006 →
      decode w = .ok (.srlv (Field.rd w) (Field.rs w) (Field.rt w) (Field.shamt w))) ∧
  ∀ (s : State) (rd rs rt : Reg) (sa : Shamt) (a b : Word), s.readGpr rs = some a → s.readGpr rt = some b →
    ∃ t, exec (.srlv rd rs rt sa) s = .next t ∧
      CommitsExactly s t (some (rd, match s.cfg.varShiftRoles with
        | .doc => a >>> (b.toNat % 32)
        | .mips32 => b >>> (a.toNat % 32))) none

/-- With GPR[rs] readable, andi answers a next state in which rt holds GPR[rs] AND the zero-extended immediate. Every
other register, the PC, the CP0 fields, the parameters and every byte of the text are unchanged; a write to a
hard-wired register 0 is discarded. Also: every word with the row's selector bits decodes to this instruction with
its fields. (R86) -/
def Obligations.AndiMasksWithZeroExtended : Prop :=
  (∀ w : Word, w &&& 0xFC000000 = 0x30000000 →
      decode w = .ok (.andi (Field.rt w) (Field.rs w) (Field.imm w))) ∧
  ∀ (s : State) (rt rs : Reg) (imm : Half) (a : Word), s.readGpr rs = some a →
    ∃ t, exec (.andi rt rs imm) s = .next t ∧ CommitsExactly s t (some (rt, a &&& (0x0000#16 ++ imm))) none

/-- With GPR[rs] readable, ori answers a next state in which rt holds GPR[rs] OR the zero-extended immediate. Every
other register, the PC, the CP0 fields, the parameters and every byte of the text are unchanged; a write to a
hard-wired register 0 is discarded. Also: every word with the row's selector bits decodes to this instruction with
its fields. (R87) -/
def Obligations.OriSetsWithZeroExtended : Prop :=
  (∀ w : Word, w &&& 0xFC000000 = 0x34000000 →
      decode w = .ok (.ori (Field.rt w) (Field.rs w) (Field.imm w))) ∧
  ∀ (s : State) (rt rs : Reg) (imm : Half) (a : Word), s.readGpr rs = some a →
    ∃ t, exec (.ori rt rs imm) s = .next t ∧ CommitsExactly s t (some (rt, a ||| (0x0000#16 ++ imm))) none

/-- With GPR[rs] readable, xori answers a next state in which rt holds GPR[rs] XOR the zero-extended immediate. Every
other register, the PC, the CP0 fields, the parameters and every byte of the text are unchanged; a write to a
hard-wired register 0 is discarded. Also: every word with the row's selector bits decodes to this instruction with
its fields. (R88) -/
def Obligations.XoriInvertsWithZeroExtended : Prop :=
  (∀ w : Word, w &&& 0xFC000000 = 0x38000000 →
      decode w = .ok (.xori (Field.rt w) (Field.rs w) (Field.imm w))) ∧
  ∀ (s : State) (rt rs : Reg) (imm : Half) (a : Word), s.readGpr rs = some a →
    ∃ t, exec (.xori rt rs imm) s = .next t ∧ CommitsExactly s t (some (rt, a ^^^ (0x0000#16 ++ imm))) none

/-- With GPR[rs] readable, addiu answers a next state in which rt holds the 32-bit sum of GPR[rs] and the sign-extended
immediate. Every other register, the PC, the CP0 fields, the parameters and every byte of the text are unchanged; a
write to a hard-wired register 0 is discarded. Also: every word with the row's selector bits decodes to this
instruction with its fields. (R106) -/
def Obligations.AddiuAddsAndWraps : Prop :=
  (∀ w : Word, w &&& 0xFC000000 = 0x24000000 →
      decode w = .ok (.addiu (Field.rt w) (Field.rs w) (Field.imm w))) ∧
  ∀ (s : State) (rt rs : Reg) (imm : Half) (a : Word), s.readGpr rs = some a →
    ∃ t, exec (.addiu rt rs imm) s = .next t ∧ CommitsExactly s t (some (rt, a + sext32 imm)) none

/-- With GPR[rs] readable, slti answers a next state in which rt holds 1 if GPR[rs] is less than the sign-extended
immediate as signed numbers, else 0. Every other register, the PC, the CP0 fields, the parameters and every byte of
the text are unchanged; a write to a hard-wired register 0 is discarded. Also: every word with the row's selector
bits decodes to this instruction with its fields. (R107) -/
def Obligations.SltiComparesSigned : Prop :=
  (∀ w : Word, w &&& 0xFC000000 = 0x28000000 →
      decode w = .ok (.slti (Field.rt w) (Field.rs w) (Field.imm w))) ∧
  ∀ (s : State) (rt rs : Reg) (imm : Half) (a : Word), s.readGpr rs = some a →
    ∃ t, exec (.slti rt rs imm) s = .next t ∧ CommitsExactly s t (some (rt, if a.toInt < (sext32 imm).toInt then 0x00000001 else 0x00000000)) none

/-- With GPR[rs] readable, sltiu answers a next state in which rt holds 1 if GPR[rs] is less than the sign-extended
immediate as unsigned numbers, else 0. Every other register, the PC, the CP0 fields, the parameters and every byte
of the text are unchanged; a write to a hard-wired register 0 is discarded. Also: every word with the row's selector
bits decodes to this instruction with its fields. (R108) -/
def Obligations.SltiuComparesSignExtendedUnsigned : Prop :=
  (∀ w : Word, w &&& 0xFC000000 = 0x2C000000 →
      decode w = .ok (.sltiu (Field.rt w) (Field.rs w) (Field.imm w))) ∧
  ∀ (s : State) (rt rs : Reg) (imm : Half) (a : Word), s.readGpr rs = some a →
    ∃ t, exec (.sltiu rt rs imm) s = .next t ∧ CommitsExactly s t (some (rt, if a.toNat < (sext32 imm).toNat then 0x00000001 else 0x00000000)) none

/-- In every state, whatever the rs field names, lui answers a next state in which rt holds the immediate followed by 16
zero bits. Every other register, the PC, the CP0 fields, the parameters and every byte of the text are unchanged; a
write to a hard-wired register 0 is discarded. Also: every word with the row's selector bits decodes to this
instruction with its fields. (R89) -/
def Obligations.LuiLoadsUpperHalf : Prop :=
  (∀ w : Word, w &&& 0xFC000000 = 0x3C000000 →
      decode w = .ok (.lui (Field.rt w) (Field.rs w) (Field.imm w))) ∧
  ∀ (s : State) (rt rs : Reg) (imm : Half),
    ∃ t, exec (.lui rt rs imm) s = .next t ∧ CommitsExactly s t (some (rt, imm ++ 0x0000#16)) none

/-- With GPR[rs] readable: without overflow (the condition of R103 on the wrapped sum) addi answers a next state in
which rt holds the sum and nothing else changes; on overflow with EXL clear it enters the trap, with no register
written; on overflow with EXL set nothing is written. Also: every word with the row's selector bits decodes to this
instruction with its fields. (R105) -/
def Obligations.AddiAddsTrapsOrIsSuppressed : Prop :=
  (∀ w : Word, w &&& 0xFC000000 = 0x20000000 →
      decode w = .ok (.addi (Field.rt w) (Field.rs w) (Field.imm w))) ∧
  ∀ (s : State) (rt rs : Reg) (imm : Half) (a : Word), s.readGpr rs = some a →
    (¬ SignsOverflow a (sext32 imm) (a + sext32 imm) →
      ∃ t, exec (.addi rt rs imm) s = .next t ∧ CommitsExactly s t (some (rt, a + sext32 imm)) none) ∧
    (SignsOverflow a (sext32 imm) (a + sext32 imm) → s.exl = false →
      ∃ t, exec (.addi rt rs imm) s = .next t ∧ TrapEntered s t) ∧
    (SignsOverflow a (sext32 imm) (a + sext32 imm) → s.exl = true →
      ∃ t, exec (.addi rt rs imm) s = .next t ∧ WritesNothing s t)

/-- With GPR[rs] and GPR[rt] readable, beq answers a next state whose PC is the branch's address plus the sign-extended
offset times 4 if the two values are equal, and is not written otherwise. Every register, the CP0 fields, the
parameters and every byte of the text are unchanged. Also: every word with the row's selector bits decodes to this
instruction with its fields. (R127) -/
def Obligations.BeqBranchesOnEqual : Prop :=
  (∀ w : Word, w &&& 0xFC000000 = 0x10000000 →
      decode w = .ok (.beq (Field.rs w) (Field.rt w) (Field.imm w))) ∧
  ∀ (s : State) (rs rt : Reg) (imm : Half) (a b : Word), s.readGpr rs = some a → s.readGpr rt = some b →
    ∃ t, exec (.beq rs rt imm) s = .next t ∧
      CommitsExactly s t none (if a = b then some (s.pc + (sext32 imm <<< 2)) else none)

/-- With GPR[rs] and GPR[rt] readable, bne answers a next state whose PC is the branch's address plus the sign-extended
offset times 4 if the two values are different, and is not written otherwise. Every register, the CP0 fields, the
parameters and every byte of the text are unchanged. Also: every word with the row's selector bits decodes to this
instruction with its fields. (R128) -/
def Obligations.BneBranchesOnDifferent : Prop :=
  (∀ w : Word, w &&& 0xFC000000 = 0x14000000 →
      decode w = .ok (.bne (Field.rs w) (Field.rt w) (Field.imm w))) ∧
  ∀ (s : State) (rs rt : Reg) (imm : Half) (a b : Word), s.readGpr rs = some a → s.readGpr rt = some b →
    ∃ t, exec (.bne rs rt imm) s = .next t ∧
      CommitsExactly s t none (if a ≠ b then some (s.pc + (sext32 imm <<< 2)) else none)

/-- With GPR[rs] readable (the rt field is ignored), blez answers a next state whose PC is the branch's address plus the
sign-extended offset times 4 if GPR[rs] is at most 0 as a signed number, and is not written otherwise. Every
register, the CP0 fields, the parameters and every byte of the text are unchanged. Also: every word with the row's
selector bits decodes to this instruction with its fields. (R129) -/
def Obligations.BlezBranchesOnNotPositive : Prop :=
  (∀ w : Word, w &&& 0xFC000000 = 0x18000000 →
      decode w = .ok (.blez (Field.rs w) (Field.rt w) (Field.imm w))) ∧
  ∀ (s : State) (rs rt : Reg) (imm : Half) (a : Word), s.readGpr rs = some a →
    ∃ t, exec (.blez rs rt imm) s = .next t ∧
      CommitsExactly s t none (if a.toInt ≤ 0 then some (s.pc + (sext32 imm <<< 2)) else none)

/-- With GPR[rs] readable (the rt field is ignored), bgtz answers a next state whose PC is the branch's address plus the
sign-extended offset times 4 if GPR[rs] is above 0 as a signed number, and is not written otherwise. Every register,
the CP0 fields, the parameters and every byte of the text are unchanged. Also: every word with the row's selector
bits decodes to this instruction with its fields. (R130) -/
def Obligations.BgtzBranchesOnPositive : Prop :=
  (∀ w : Word, w &&& 0xFC000000 = 0x1C000000 →
      decode w = .ok (.bgtz (Field.rs w) (Field.rt w) (Field.imm w))) ∧
  ∀ (s : State) (rs rt : Reg) (imm : Half) (a : Word), s.readGpr rs = some a →
    ∃ t, exec (.bgtz rs rt imm) s = .next t ∧
      CommitsExactly s t none (if 0 < a.toInt then some (s.pc + (sext32 imm <<< 2)) else none)

/-- With GPR[rs] readable, bltz answers a next state whose PC is the branch's address plus the sign-extended offset
times 4 if GPR[rs] is below 0 as a signed number, and is not written otherwise. Every register, the CP0 fields, the
parameters and every byte of the text are unchanged. Also: every word with the row's selector bits decodes to this
instruction with its fields. (R131) -/
def Obligations.BltzBranchesOnNegative : Prop :=
  (∀ w : Word, w &&& 0xFC1F0000 = 0x04000000 →
      decode w = .ok (.bltz (Field.rs w) (Field.imm w))) ∧
  ∀ (s : State) (rs : Reg) (imm : Half) (a : Word), s.readGpr rs = some a →
    ∃ t, exec (.bltz rs imm) s = .next t ∧
      CommitsExactly s t none (if a.toInt < 0 then some (s.pc + (sext32 imm <<< 2)) else none)

/-- With GPR[rs] readable, bgez answers a next state whose PC is the branch's address plus the sign-extended offset
times 4 if GPR[rs] is at least 0 as a signed number, and is not written otherwise. Every register, the CP0 fields,
the parameters and every byte of the text are unchanged. Also: every word with the row's selector bits decodes to
this instruction with its fields. (R132) -/
def Obligations.BgezBranchesOnNotNegative : Prop :=
  (∀ w : Word, w &&& 0xFC1F0000 = 0x04010000 →
      decode w = .ok (.bgez (Field.rs w) (Field.imm w))) ∧
  ∀ (s : State) (rs : Reg) (imm : Half) (a : Word), s.readGpr rs = some a →
    ∃ t, exec (.bgez rs imm) s = .next t ∧
      CommitsExactly s t none (if 0 ≤ a.toInt then some (s.pc + (sext32 imm <<< 2)) else none)

/-- With GPR[rs] readable, bltzal answers a next state in which register 31 holds the branch's address plus 8, taken or
not, and whose PC is the branch's address plus the sign-extended offset times 4 if the value GPR[rs] had before the
link was written is below 0 as a signed number, and is not written otherwise; rs may be 31. Every other register,
the CP0 fields, the parameters and every byte of the text are unchanged. Also: every word with the row's selector
bits decodes to this instruction with its fields. (R133) -/
def Obligations.BltzalAlwaysLinksAndBranchesOnNegative : Prop :=
  (∀ w : Word, w &&& 0xFC1F0000 = 0x04100000 →
      decode w = .ok (.bltzal (Field.rs w) (Field.imm w))) ∧
  ∀ (s : State) (rs : Reg) (imm : Half) (a : Word), s.readGpr rs = some a →
    ∃ t, exec (.bltzal rs imm) s = .next t ∧
      CommitsExactly s t (some (31, s.pc + 8)) (if a.toInt < 0 then some (s.pc + (sext32 imm <<< 2)) else none)

/-- With GPR[rs] readable, bgezal answers a next state in which register 31 holds the branch's address plus 8, taken or
not, and whose PC is the branch's address plus the sign-extended offset times 4 if the value GPR[rs] had before the
link was written is at least 0 as a signed number, and is not written otherwise; rs may be 31. Every other register,
the CP0 fields, the parameters and every byte of the text are unchanged. Also: every word with the row's selector
bits decodes to this instruction with its fields. (R134) -/
def Obligations.BgezalAlwaysLinksAndBranchesOnNotNegative : Prop :=
  (∀ w : Word, w &&& 0xFC1F0000 = 0x04110000 →
      decode w = .ok (.bgezal (Field.rs w) (Field.imm w))) ∧
  ∀ (s : State) (rs : Reg) (imm : Half) (a : Word), s.readGpr rs = some a →
    ∃ t, exec (.bgezal rs imm) s = .next t ∧
      CommitsExactly s t (some (31, s.pc + 8)) (if 0 ≤ a.toInt then some (s.pc + (sext32 imm <<< 2)) else none)

/-- For a register value and a sign-extended immediate, three things are equivalent: the detector fires; the two addends
have equal signs and the wrapped sum's sign differs; the sum of the two as integers lies outside -2^31..2^31-1. R104
marks the equivalence as its own derivation. (41_imm_arith.md section 2 (R102, R103, R104)) -/
def Obligations.OverflowDetectorIsExact : Prop :=
  ∀ (a : Word) (imm : Half),
    (ovfAdd a (sext32 imm) (a + sext32 imm) = true ↔
      a.msb = (sext32 imm).msb ∧ (a + sext32 imm).msb ≠ a.msb) ∧
    (ovfAdd a (sext32 imm) (a + sext32 imm) = true ↔
      (a.toInt + (sext32 imm).toInt < -2 ^ 31 ∨ 2 ^ 31 - 1 < a.toInt + (sext32 imm).toInt))

/-- For all values: the bgez and bgezal condition is "bit 31 is 0", that of bltz and bltzal "bit 31 is 1", that of bgtz
"bit 31 is 0 and the value is not 0", that of blez "bit 31 is 1 or the value is 0", each of them also the signed
comparison with 0; the beq condition is equality, the bne condition inequality. (42_branch.md section 1 (R122)) -/
def Obligations.BranchConditionsAreSignBitTests : Prop :=
  ∀ a b : Word,
    ((condGez a = true ↔ a.getLsbD 31 = false) ∧ (condGez a = true ↔ 0 ≤ a.toInt)) ∧
    ((condLtz a = true ↔ a.getLsbD 31 = true) ∧ (condLtz a = true ↔ a.toInt < 0)) ∧
    ((condGtz a = true ↔ a.getLsbD 31 = false ∧ a ≠ 0) ∧ (condGtz a = true ↔ 0 < a.toInt)) ∧
    ((condLez a = true ↔ a.getLsbD 31 = true ∨ a = 0) ∧ (condLez a = true ↔ a.toInt ≤ 0)) ∧
    (condEq a b = true ↔ a = b) ∧ (condNe a b = true ↔ a ≠ b)

/-- For every immediate the branch offset as a signed number is 4 times the immediate as a signed number, between
-131072 and 131068; for every PC that is a multiple of 4, the branch target and pc + 8 are multiples of 4.
(20_memory.md section 1 (R44), 30_encoding.md section 3 (R60), 42_branch.md section 1 (R124, R125)) -/
def Obligations.BranchAndLinkAddressesStayAligned : Prop :=
  ∀ (imm : Half) (pc : Word),
    (branchOffset imm).toInt = 4 * imm.toInt ∧
    -131072 ≤ (branchOffset imm).toInt ∧ (branchOffset imm).toInt ≤ 131068 ∧
    (pc.toNat % 4 = 0 → (branchTarget pc imm).toNat % 4 = 0 ∧ (linkValue pc).toNat % 4 = 0)

/-- In every state: with R0_HARDWIRED true, register 0 reads 0 and a write to it changes nothing; a write to any other
register, or to register 0 with R0_HARDWIRED false, makes that register read the value and leaves every other
register as it was. (10_state.md section 1 (R13, R14, R16)) -/
def Obligations.RegisterZeroFollowsItsParameter : Prop :=
  ∀ (s : State) (i r : Reg) (v : Word),
    (s.cfg.r0Hardwired = true → s.readGpr 0 = some 0 ∧ s.writeGpr 0 v = s) ∧
    (i ≠ 0 ∨ s.cfg.r0Hardwired = false →
      (s.writeGpr i v).readGpr i = some v ∧ (r ≠ i → (s.writeGpr i v).readGpr r = s.readGpr r))

/-- For every instruction and state: if the handler uses port S and that register is unwritten, the activation answers
the fault unwrittenRead of it; otherwise, if the handler uses port T and that register is unwritten, the fault
unwrittenRead of that one; otherwise a next state. The order S before T is read from 95 P5 (DEDUCED, log 13);
unwritten registers are the spec's decision D14 (log 2). (10_state.md section 1 (R15, R16), 60_exceptions.md section
1 (R141, R147), 95_test_vectors.md P5) -/
def Obligations.ActivationFaultsExactlyOnUnwrittenUsedPort : Prop :=
  ∀ (i : Instr) (s : State),
    if i.handler.usesS = true ∧ s.readGpr i.portS = none then exec i s = .fault (.unwrittenRead i.portS)
    else if i.handler.usesT = true ∧ s.readGpr i.portT = none then exec i s = .fault (.unwrittenRead i.portT)
    else ∃ t, exec i s = .next t

/-- Two states that agree on the parameters, the PC, EXL and the values of the instruction's two read ports give the
same answer to the activation: the same fault, or two next states with the same output signals, in which the PC, EXL
and the register written are the same too. Cause.ExcCode and EPC are the same where a trap was driven; where none
was, each next state has those of the state it came from. No other register, no program text and no earlier
activation can be seen. (10_state.md section 5 (R24, R25, R26)) -/
def Obligations.OutputsDependOnlyOnInputSignals : Prop :=
  ∀ (i : Instr) (s₁ s₂ : State), s₁.cfg = s₂.cfg → s₁.pc = s₂.pc → s₁.exl = s₂.exl →
    s₁.readGpr i.portS = s₂.readGpr i.portS → s₁.readGpr i.portT = s₂.readGpr i.portT →
    (∃ t₁ t₂, exec i s₁ = .next t₁ ∧ exec i s₂ = .next t₂ ∧ t₁.out = t₂.out ∧ t₁.pc = t₂.pc ∧ t₁.exl = t₂.exl ∧
      (t₁.out.trap = true → t₁.excCode = t₂.excCode ∧ t₁.epc = t₂.epc) ∧
      (t₁.out.trap = false → t₁.excCode = s₁.excCode ∧ t₁.epc = s₁.epc ∧ t₂.excCode = s₂.excCode ∧
        t₂.epc = s₂.epc) ∧
      (∀ d v, t₁.out.gprWrite = some (d, v) → t₁.readGpr d = t₂.readGpr d)) ∨
    (∃ f, exec i s₁ = .fault f ∧ exec i s₂ = .fault f)

/-- For every instruction: in a next state of its activation every register that is not its destination (rd for R-type,
rt for I-type arithmetic and logic, 31 for branch-and-link, none for the other branches) reads as before.
(10_state.md sections 1 and 5 (R15, R27), 40_logical_shift.md section 1 (R81)) -/
def Obligations.OnlyTheDestinationIsWritten : Prop :=
  ∀ (i : Instr) (s t : State), exec i s = .next t → ∀ r, i.destination ≠ some r → t.readGpr r = s.readGpr r

/-- For every instruction, in a next state of its activation: either no PC was written and the PC is the instruction's
own address; or the instruction is a branch and the PC is the address plus its sign-extended offset times 4 (modulo
2^32); or the instruction is addi, the activation trapped and the PC is TRAP_ADDR. (10_state.md sections 2 and 5
(R18, R28), 42_branch.md section 1 (R123, R124)) -/
def Obligations.PcIsWrittenOnlyByBranchesAndTraps : Prop :=
  ∀ (i : Instr) (s t : State), exec i s = .next t →
    (t.out.pcWrite = none ∧ t.pc = s.pc) ∨
    (i.branchImm.isSome = true ∧ ∃ imm, i.branchImm = some imm ∧
      t.out.pcWrite = some (s.pc + (sext32 imm <<< 2)) ∧ t.pc = s.pc + (sext32 imm <<< 2)) ∨
    (i.handler = .addi ∧ t.out.trap = true ∧ t.out.pcWrite = some s.cfg.trapAddr ∧ t.pc = s.cfg.trapAddr)

/-- For every instruction, in a next state of its activation: if trap is driven, the instruction is an addi whose
operands overflow, EXL was clear, and the state is that of trap entry (cause OV_EXCCODE, EPC the address of the
addi, PC TRAP_ADDR, EXL set, no register written, nothing else changed); if trap is not driven, EXL, Cause.ExcCode
and EPC are unchanged. (R29, R144) -/
def Obligations.OnlyAnAddiOverflowTraps : Prop :=
  ∀ (i : Instr) (s t : State), exec i s = .next t →
    (t.out.trap = true → s.exl = false ∧ TrapEntered s t ∧ ∃ rt rs imm a, i = .addi rt rs imm ∧
      s.readGpr rs = some a ∧ SignsOverflow a (sext32 imm) (a + sext32 imm)) ∧
    (t.out.trap = false → t.exl = s.exl ∧ t.excCode = s.excCode ∧ t.epc = s.epc)

/-- If EXL is set and a step answers a next state, then EXL is still set, no trap was driven, and EPC and Cause.ExcCode
are as before. (60_exceptions.md section 3 (R149), 70_reset_and_hazards.md section 2 (R166)) -/
def Obligations.NoStepClearsExlOrClobbersATrap : Prop :=
  ∀ s t : State, s.exl = true → step s = .next t →
    t.exl = true ∧ t.out.trap = false ∧ t.epc = s.epc ∧ t.excCode = s.excCode

/-- For an instruction other than addi, or an addi whose operands do not overflow, in two states that differ only in
EXL: if one activation answers a next state, the other answers the same state but for that same EXL; if one faults,
the other faults the same. (60_exceptions.md section 4 (R151)) -/
def Obligations.ExlGatesOnlyTheOverflowTrap : Prop :=
  ∀ (i : Instr) (s : State) (e : Bool),
    (∀ rt rs imm a, i = .addi rt rs imm → s.readGpr rs = some a →
      ¬ SignsOverflow a (sext32 imm) (a + sext32 imm)) →
    (∀ t, exec i s = .next t → exec i { s with exl := e } = .next { t with exl := e }) ∧
    (∀ f, exec i s = .fault f → exec i { s with exl := e } = .fault f)

/-- If a step answers a next state, its program text and its parameters are those of the state before. (20_memory.md
sections 1 and 2 (R41, R50), 00_scope.md section 3 (R8)) -/
def Obligations.StepsLeaveTextAndParameters : Prop :=
  ∀ s t : State, step s = .next t → t.mem = s.mem ∧ t.cfg = s.cfg

/-- If a step answers a next state, the PC was a multiple of 4. Under ADVANCE_IF_NOT_WRITTEN the new PC is the block's
PC write if it made one and the old PC plus 4 (modulo 2^32) otherwise. Under EXEC_DELAY_SLOT (the model's reading,
log 16) it is TRAP_ADDR after a trap, with no target waiting; after anything else it is the target that was waiting,
or the old PC plus 4 if none was, and the block's PC write waits. (70_reset_and_hazards.md section 2 (R164),
42_branch.md section 1 (R126), 92_eei_decisions.md D9) -/
def Obligations.PcAfterAStep : Prop :=
  ∀ s t : State, step s = .next t → s.pc.toNat % 4 = 0 ∧
    (s.cfg.harness = .advanceIfNotWritten → t.pc = t.out.pcWrite.getD (s.pc + 4)) ∧
    (s.cfg.harness = .execDelaySlot → if t.out.trap = true then t.pc = s.cfg.trapAddr ∧ t.delayed = none
      else t.pc = s.delayed.getD (s.pc + 4) ∧ t.delayed = t.out.pcWrite)

/-- If a state meets the invariant (program text in canonical form; a hard-wired register 0 holds 0; an unwritten
register holds 0; a waiting branch target a multiple of 4; the PC a multiple of 4 if TRAP_ADDR is and the policy
HARNESS is one of the two the spec names; EXL set after a trap) and a step answers a next state, the next state
meets it. R164 and D9 only name EXEC_DELAY_SLOT and leave it OPEN: the waiting branch target, and the PC under that
policy, are the model's reading (DEDUCED, log 16). That any other policy may set the PC to any value, and so is
exempt from the clause on the PC, is the model's choice (DESIGN CHOICE, log 17). (10_state.md sections 1 to 3 (R14,
R16, R19), 20_memory.md sections 1 and 2 (R42, R44, R50), 42_branch.md section 1 (R126), 60_exceptions.md section 3
(R149), 70_reset_and_hazards.md section 2 (R164), 92_eei_decisions.md D9) -/
def Obligations.StepKeepsInvariant : Prop :=
  ∀ s t : State, s.Inv → step s = .next t → t.Inv

/-- State.reset meets the invariant (its clauses on a waiting branch target and on the policy HARNESS are the model's,
logs 16 and 17); State.atReset meets it for all parameters whose RESET_PC is a multiple of 4 and for all draws of
Cause.ExcCode and EPC. (70_reset_and_hazards.md section 1 (R160, R161)) -/
def Obligations.ResetMeetsInvariant : Prop :=
  State.reset.Inv ∧
    ∀ (c : Config) (exc : BitVec 5) (e : Word), c.resetPc.toNat % 4 = 0 → (State.atReset c exc e).Inv

/-- For all parameters and all draws of Cause.ExcCode and EPC: at reset the PC is RESET_PC, EXL is EXL_RESET, register 0
reads 0 if hard-wired and is unwritten otherwise, and every other register is unwritten. (70_reset_and_hazards.md
section 1 (R160), 10_state.md section 6 (R32)) -/
def Obligations.ResetFollowsItsParameters : Prop :=
  ∀ (c : Config) (exc : BitVec 5) (e : Word),
    (State.atReset c exc e).pc = c.resetPc ∧ (State.atReset c exc e).exl = c.exlReset ∧
    (State.atReset c exc e).excCode = exc ∧ (State.atReset c exc e).epc = e ∧
    ∀ r, (State.atReset c exc e).readGpr r = if c.r0Hardwired = true ∧ r = 0 then some 0 else none

/-- In State.reset every register reads 0 (DESIGN CHOICE, log 2), and every instruction run in it answers a next state.
(70_reset_and_hazards.md section 1 (R161)) -/
def Obligations.BootGivesEveryRegisterAValue : Prop :=
  (∀ r, State.reset.readGpr r = some 0) ∧ ∀ i, ∃ t, exec i State.reset = .next t

/-- A step answers a next state exactly when the PC is a multiple of 4, its four bytes are placed and make a word that
decodes to an instruction, and every port that instruction's handler uses names a written register. That a fetch
where no text was placed is a fault is the model's choice (DESIGN CHOICE, log 7); that an unwritten register on a
used port is one is the spec's decision D14. (70_reset_and_hazards.md section 2 (R164), 60_exceptions.md section 1
(R141, R147)) -/
def Obligations.StepIsSafeExactlyWhen : Prop :=
  ∀ s : State, Safe s ↔ ∃ w i, s.pc.toNat % 4 = 0 ∧ s.fetchWordAt s.pc = .ok w ∧ decode w = .ok i ∧
    (i.handler.usesS = true → s.readGpr i.portS ≠ none) ∧ (i.handler.usesT = true → s.readGpr i.portT ≠ none)

/-- With R0_HARDWIRED true and a destination other than register 0, the activations of li rt, v answer a next state in
which rt reads v, every other register reads as before, and the CP0 fields, parameters and text are unchanged; in
the same way move rd, rs copies a readable GPR[rs] and not rd, rs writes its complement. The expansions are the
spec's general knowledge (I6). (30_encoding.md section 5 (R67)) -/
def Obligations.LoadImmediateLoadsTheValue : Prop :=
  ∀ (s : State) (d rs : Reg) (v a : Word), s.cfg.r0Hardwired = true → d ≠ 0 → s.readGpr rs = some a →
    (∃ t, Pseudo.run (Pseudo.li d v) s = .next t ∧ t.readGpr d = some v ∧
      (∀ r, r ≠ d → t.readGpr r = s.readGpr r) ∧ SameOutside s t) ∧
    (∃ t, Pseudo.run (Pseudo.move d rs) s = .next t ∧ t.readGpr d = some a ∧
      (∀ r, r ≠ d → t.readGpr r = s.readGpr r) ∧ SameOutside s t) ∧
    (∃ t, Pseudo.run (Pseudo.not d rs) s = .next t ∧ t.readGpr d = some (~~~a) ∧
      (∀ r, r ≠ d → t.readGpr r = s.readGpr r) ∧ SameOutside s t)

/-- With the policy EXEC_DELAY_SLOT, no branch target waiting, and two steps that each answer a next state without a
trap: the second fetches at the next address, whatever the first wrote to the PC, and after it the PC is what the
first wrote, or the address after the second if it wrote none. The policy's reading is the model's (log 16).
(42_branch.md section 1 (R126), 70_reset_and_hazards.md section 2 (R163, R164), 92_eei_decisions.md D9) -/
def Obligations.DelaySlotExecutesBeforeTheBranch : Prop :=
  ∀ s t u : State, s.cfg.harness = .execDelaySlot → s.delayed = none → step s = .next t → t.out.trap = false →
    step t = .next u → u.out.trap = false → t.pc = s.pc + 4 ∧ u.pc = t.out.pcWrite.getD (s.pc + 8)

/-- In a state in which every register holds a value (State.reset is one), a step answers no fault unwrittenRead, and in
its next state every register still holds a value. So the fault of R16 is met only in a launch that leaves a
register unwritten. (10_state.md section 1 (R16), 70_reset_and_hazards.md section 1 (R161)) -/
def Obligations.NoUnwrittenReadOnceEveryRegisterIsWritten : Prop :=
  ∀ s : State, (∀ r, s.readGpr r ≠ none) →
    (∀ i, step s ≠ .fault (.unwrittenRead i)) ∧ ∀ t, step s = .next t → ∀ r, t.readGpr r ≠ none
end

