-- ==== Sys2Proof/Laws/State.lean ====
section
/-! SUPPORT. One lemma per field per state update, so that no proof unfolds a record update. -/

namespace Sys2Proof.Machine

@[simp] theorem State.writePc_cfg (s : State) (p : Word) :
    (s.writePc p).cfg = s.cfg := rfl

@[simp] theorem State.writePc_gpr (s : State) (p : Word) :
    (s.writePc p).gpr = s.gpr := rfl

@[simp] theorem State.writePc_written (s : State) (p : Word) :
    (s.writePc p).written = s.written := rfl

@[simp] theorem State.writePc_pc (s : State) (p : Word) :
    (s.writePc p).pc = p := rfl

@[simp] theorem State.writePc_exl (s : State) (p : Word) :
    (s.writePc p).exl = s.exl := rfl

@[simp] theorem State.writePc_excCode (s : State) (p : Word) :
    (s.writePc p).excCode = s.excCode := rfl

@[simp] theorem State.writePc_epc (s : State) (p : Word) :
    (s.writePc p).epc = s.epc := rfl

@[simp] theorem State.writePc_out (s : State) (p : Word) :
    (s.writePc p).out = s.out := rfl

@[simp] theorem State.writePc_delayed (s : State) (p : Word) :
    (s.writePc p).delayed = s.delayed := rfl

@[simp] theorem State.writePc_turn (s : State) (p : Word) :
    (s.writePc p).turn = s.turn := rfl

@[simp] theorem State.writePc_mem (s : State) (p : Word) :
    (s.writePc p).mem = s.mem := rfl

@[simp] theorem State.takeException_cfg (s : State) (c : BitVec 5) :
    (s.takeException c).cfg = s.cfg := rfl

@[simp] theorem State.takeException_gpr (s : State) (c : BitVec 5) :
    (s.takeException c).gpr = s.gpr := rfl

@[simp] theorem State.takeException_written (s : State) (c : BitVec 5) :
    (s.takeException c).written = s.written := rfl

@[simp] theorem State.takeException_pc (s : State) (c : BitVec 5) :
    (s.takeException c).pc = s.cfg.trapAddr := rfl

@[simp] theorem State.takeException_exl (s : State) (c : BitVec 5) :
    (s.takeException c).exl = true := rfl

@[simp] theorem State.takeException_excCode (s : State) (c : BitVec 5) :
    (s.takeException c).excCode = c := rfl

@[simp] theorem State.takeException_epc (s : State) (c : BitVec 5) :
    (s.takeException c).epc = s.pc := rfl

@[simp] theorem State.takeException_out (s : State) (c : BitVec 5) :
    (s.takeException c).out = s.out := rfl

@[simp] theorem State.takeException_delayed (s : State) (c : BitVec 5) :
    (s.takeException c).delayed = s.delayed := rfl

@[simp] theorem State.takeException_turn (s : State) (c : BitVec 5) :
    (s.takeException c).turn = s.turn := rfl

@[simp] theorem State.takeException_mem (s : State) (c : BitVec 5) :
    (s.takeException c).mem = s.mem := rfl

@[simp] theorem State.writeGpr_cfg (s : State) (i : Reg) (v : Word) :
    (s.writeGpr i v).cfg = s.cfg := by
  unfold State.writeGpr; split <;> rfl

@[simp] theorem State.writeGpr_pc (s : State) (i : Reg) (v : Word) :
    (s.writeGpr i v).pc = s.pc := by
  unfold State.writeGpr; split <;> rfl

@[simp] theorem State.writeGpr_exl (s : State) (i : Reg) (v : Word) :
    (s.writeGpr i v).exl = s.exl := by
  unfold State.writeGpr; split <;> rfl

@[simp] theorem State.writeGpr_excCode (s : State) (i : Reg) (v : Word) :
    (s.writeGpr i v).excCode = s.excCode := by
  unfold State.writeGpr; split <;> rfl

@[simp] theorem State.writeGpr_epc (s : State) (i : Reg) (v : Word) :
    (s.writeGpr i v).epc = s.epc := by
  unfold State.writeGpr; split <;> rfl

@[simp] theorem State.writeGpr_out (s : State) (i : Reg) (v : Word) :
    (s.writeGpr i v).out = s.out := by
  unfold State.writeGpr; split <;> rfl

@[simp] theorem State.writeGpr_delayed (s : State) (i : Reg) (v : Word) :
    (s.writeGpr i v).delayed = s.delayed := by
  unfold State.writeGpr; split <;> rfl

@[simp] theorem State.writeGpr_turn (s : State) (i : Reg) (v : Word) :
    (s.writeGpr i v).turn = s.turn := by
  unfold State.writeGpr; split <;> rfl

@[simp] theorem State.writeGpr_mem (s : State) (i : Reg) (v : Word) :
    (s.writeGpr i v).mem = s.mem := by
  unfold State.writeGpr; split <;> rfl

@[simp] theorem State.applyGprWrite_cfg (s : State) (w : Option (Reg × Word)) :
    (s.applyGprWrite w).cfg = s.cfg := by
  cases w <;> simp [State.applyGprWrite]

@[simp] theorem State.applyGprWrite_pc (s : State) (w : Option (Reg × Word)) :
    (s.applyGprWrite w).pc = s.pc := by
  cases w <;> simp [State.applyGprWrite]

@[simp] theorem State.applyGprWrite_exl (s : State) (w : Option (Reg × Word)) :
    (s.applyGprWrite w).exl = s.exl := by
  cases w <;> simp [State.applyGprWrite]

@[simp] theorem State.applyGprWrite_excCode (s : State) (w : Option (Reg × Word)) :
    (s.applyGprWrite w).excCode = s.excCode := by
  cases w <;> simp [State.applyGprWrite]

@[simp] theorem State.applyGprWrite_epc (s : State) (w : Option (Reg × Word)) :
    (s.applyGprWrite w).epc = s.epc := by
  cases w <;> simp [State.applyGprWrite]

@[simp] theorem State.applyGprWrite_out (s : State) (w : Option (Reg × Word)) :
    (s.applyGprWrite w).out = s.out := by
  cases w <;> simp [State.applyGprWrite]

@[simp] theorem State.applyGprWrite_delayed (s : State) (w : Option (Reg × Word)) :
    (s.applyGprWrite w).delayed = s.delayed := by
  cases w <;> simp [State.applyGprWrite]

@[simp] theorem State.applyGprWrite_turn (s : State) (w : Option (Reg × Word)) :
    (s.applyGprWrite w).turn = s.turn := by
  cases w <;> simp [State.applyGprWrite]

@[simp] theorem State.applyGprWrite_mem (s : State) (w : Option (Reg × Word)) :
    (s.applyGprWrite w).mem = s.mem := by
  cases w <;> simp [State.applyGprWrite]

@[simp] theorem State.applyPcWrite_cfg (s : State) (w : Option Word) :
    (s.applyPcWrite w).cfg = s.cfg := by
  cases w <;> rfl

@[simp] theorem State.applyPcWrite_gpr (s : State) (w : Option Word) :
    (s.applyPcWrite w).gpr = s.gpr := by
  cases w <;> rfl

@[simp] theorem State.applyPcWrite_written (s : State) (w : Option Word) :
    (s.applyPcWrite w).written = s.written := by
  cases w <;> rfl

@[simp] theorem State.applyPcWrite_pc (s : State) (w : Option Word) :
    (s.applyPcWrite w).pc = w.getD s.pc := by
  cases w <;> rfl

@[simp] theorem State.applyPcWrite_exl (s : State) (w : Option Word) :
    (s.applyPcWrite w).exl = s.exl := by
  cases w <;> rfl

@[simp] theorem State.applyPcWrite_excCode (s : State) (w : Option Word) :
    (s.applyPcWrite w).excCode = s.excCode := by
  cases w <;> rfl

@[simp] theorem State.applyPcWrite_epc (s : State) (w : Option Word) :
    (s.applyPcWrite w).epc = s.epc := by
  cases w <;> rfl

@[simp] theorem State.applyPcWrite_out (s : State) (w : Option Word) :
    (s.applyPcWrite w).out = s.out := by
  cases w <;> rfl

@[simp] theorem State.applyPcWrite_delayed (s : State) (w : Option Word) :
    (s.applyPcWrite w).delayed = s.delayed := by
  cases w <;> rfl

@[simp] theorem State.applyPcWrite_turn (s : State) (w : Option Word) :
    (s.applyPcWrite w).turn = s.turn := by
  cases w <;> rfl

@[simp] theorem State.applyPcWrite_mem (s : State) (w : Option Word) :
    (s.applyPcWrite w).mem = s.mem := by
  cases w <;> rfl


/-! The commit, field by field (spec 10_state.md R27 to R29). -/

@[simp] theorem State.commit_cfg (s : State) (o : Outputs) : (s.commit o).cfg = s.cfg := by
  unfold State.commit; split <;> simp

@[simp] theorem State.commit_delayed (s : State) (o : Outputs) : (s.commit o).delayed = s.delayed := by
  unfold State.commit; split <;> simp

@[simp] theorem State.commit_turn (s : State) (o : Outputs) : (s.commit o).turn = s.turn := by
  unfold State.commit; split <;> simp

@[simp] theorem State.commit_mem (s : State) (o : Outputs) : (s.commit o).mem = s.mem := by
  unfold State.commit; split <;> simp

@[simp] theorem State.commit_out (s : State) (o : Outputs) : (s.commit o).out = o := by
  unfold State.commit; split <;> rfl

@[simp] theorem State.commit_exl (s : State) (o : Outputs) :
    (s.commit o).exl = if o.trap then true else s.exl := by
  unfold State.commit; split <;> simp

@[simp] theorem State.commit_excCode (s : State) (o : Outputs) :
    (s.commit o).excCode = if o.trap then s.cfg.ovExcCode else s.excCode := by
  unfold State.commit; split <;> simp

@[simp] theorem State.commit_epc (s : State) (o : Outputs) :
    (s.commit o).epc = if o.trap then s.pc else s.epc := by
  unfold State.commit; split <;> simp

@[simp] theorem State.commit_pc (s : State) (o : Outputs) :
    (s.commit o).pc = if o.trap then s.cfg.trapAddr else o.pcWrite.getD s.pc := by
  unfold State.commit; split <;> simp

theorem State.commit_gpr (s : State) (o : Outputs) :
    (s.commit o).gpr = (s.applyGprWrite o.gprWrite).gpr := by
  unfold State.commit
  split
  · cases h : o.gprWrite with
    | none => rfl
    | some p => simp [State.applyGprWrite, State.writeGpr, State.hardwired]; split <;> rfl
  · simp

theorem State.commit_written (s : State) (o : Outputs) :
    (s.commit o).written = (s.applyGprWrite o.gprWrite).written := by
  unfold State.commit
  split
  · cases h : o.gprWrite with
    | none => rfl
    | some p => simp [State.applyGprWrite, State.writeGpr, State.hardwired]; split <;> rfl
  · simp

end Sys2Proof.Machine
end

