-- ==== Sys2Proof/Laws/Registers.lean ====
section
/-! SUPPORT. What reading a register answers after a write or a commit (spec 10_state.md R13, R14, R16, R27). -/

namespace Sys2Proof.Machine

theorem State.hardwired_congr {s t : State} (h : t.cfg = s.cfg) (i : Reg) : t.hardwired i = s.hardwired i := by
  simp [State.hardwired, h]

/-- What a read port yields depends on the parameters and the two register fields alone. -/
theorem State.readGpr_congr {s t : State} (hc : t.cfg = s.cfg) (hg : t.gpr = s.gpr) (hw : t.written = s.written)
    (i : Reg) : t.readGpr i = s.readGpr i := by
  simp [State.readGpr, State.hardwired, hc, hg, hw]

theorem State.readGpr_hardwired {s : State} {i : Reg} (h : s.hardwired i = true) : s.readGpr i = some 0 := by
  simp [State.readGpr, h]

/-- A read after a write: the written register holds the value, unless it is a hard-wired register 0; every other
register reads as before. -/
theorem State.readGpr_writeGpr (s : State) (i r : Reg) (v : Word) :
    (s.writeGpr i v).readGpr r = if i = r ∧ s.hardwired i = false then some v else s.readGpr r := by
  unfold State.writeGpr
  by_cases hw : s.hardwired i = true
  · simp [hw]
  · simp only [Bool.not_eq_true] at hw
    by_cases hir : i = r
    · subst hir
      have h' : ∀ g w, State.hardwired { s with gpr := g, written := w } i = false := fun _ _ => hw
      simp [hw, State.readGpr, h']
    · have hn : i.toNat ≠ r.toNat := fun h => hir (BitVec.eq_of_toNat_eq h)
      have h' : ∀ g w, State.hardwired { s with gpr := g, written := w } r = s.hardwired r := fun _ _ => rfl
      simp [hw, hir, State.readGpr, h', hn]

theorem State.readGpr_applyGprWrite (s : State) (w : Option (Reg × Word)) (r : Reg) :
    (s.applyGprWrite w).readGpr r =
      match w with
      | some (i, v) => if i = r ∧ s.hardwired i = false then some v else s.readGpr r
      | none => s.readGpr r := by
  rcases w with _ | ⟨i, v⟩
  · rfl
  · exact State.readGpr_writeGpr s i r v

/-- What a register reads after a commit: the one register the signals write, every other as before. -/
theorem State.readGpr_commit (s : State) (o : Outputs) (r : Reg) :
    (s.commit o).readGpr r =
      match o.gprWrite with
      | some (i, v) => if i = r ∧ s.hardwired i = false then some v else s.readGpr r
      | none => s.readGpr r := by
  rw [← State.readGpr_applyGprWrite]
  exact State.readGpr_congr (by simp) (by simp [State.commit_gpr]) (by simp [State.commit_written]) r

end Sys2Proof.Machine
end

