-- ==== Sys2Proof/Laws/Activation.lean ====
section
/-! SUPPORT. What an activation can answer: the spec lemmas of operand use, of the handler shapes and of `exec`, which
proofs cite instead of unfolding a meaning. -/

namespace Sys2Proof.Machine

/-- Using an operand answers what the continuation answers on its value, or the fault of an unwritten register (spec
10_state.md R16). -/
theorem Operand.use_ok {o : Operand} {k : Word → Except Fault Outputs} {r : Outputs} (h : o.use k = .ok r) :
    ∃ v, k v = .ok r := by
  rcases o with ⟨i, _ | v⟩ | ⟨_, v⟩
  · cases h
  · exact ⟨v, h⟩
  · exact ⟨v, h⟩

@[simp] theorem Operand.use_some (i : Reg) (v : Word) (k : Word → Except Fault Outputs) :
    (Operand.register i (some v)).use k = k v := rfl

@[simp] theorem Operand.use_none (i : Reg) (k : Word → Except Fault Outputs) :
    (Operand.register i none).use k = .error (.unwrittenRead i) := rfl

@[simp] theorem Operand.use_immediate (raw : Half) (v : Word) (k : Word → Except Fault Outputs) :
    (Operand.immediate raw v).use k = k v := rfl

theorem bothSources_ok {sl : Slots} {f : Word → Word → Word} {o : Outputs} (h : bothSources sl f = .ok o) :
    ∃ a b, o = .gpr sl.destination (f a b) := by
  obtain ⟨a, ha⟩ := Operand.use_ok h
  obtain ⟨b, hb⟩ := Operand.use_ok ha
  exact ⟨a, b, (Except.ok.inj hb).symm⟩

theorem firstSource_ok {sl : Slots} {f : Word → Word} {o : Outputs} (h : firstSource sl f = .ok o) :
    ∃ a, o = .gpr sl.destination (f a) := by
  obtain ⟨a, ha⟩ := Operand.use_ok h
  exact ⟨a, (Except.ok.inj ha).symm⟩

theorem secondSource_ok {sl : Slots} {f : Word → Word} {o : Outputs} (h : secondSource sl f = .ok o) :
    ∃ b, o = .gpr sl.destination (f b) := by
  obtain ⟨b, hb⟩ := Operand.use_ok h
  exact ⟨b, (Except.ok.inj hb).symm⟩

theorem branchOn_ok {c : Word → Bool} {rs rt : Reg} {imm : Half} {inp : Inputs} {o : Outputs}
    (h : branchOn c rs rt imm inp = .ok o) : ∃ t, o = .branch t (branchTarget inp.pc imm) := by
  obtain ⟨a, ha⟩ := Operand.use_ok h
  exact ⟨c a, (Except.ok.inj ha).symm⟩

theorem branchLinkOn_ok {c : Word → Bool} {rs rt : Reg} {imm : Half} {inp : Inputs} {o : Outputs}
    (h : branchLinkOn c rs rt imm inp = .ok o) :
    ∃ t, o = .branchLink t (branchTarget inp.pc imm) (linkValue inp.pc) := by
  obtain ⟨a, ha⟩ := Operand.use_ok h
  exact ⟨c a, (Except.ok.inj ha).symm⟩

theorem branchOnTwo_ok {c : Word → Word → Bool} {rs rt : Reg} {imm : Half} {inp : Inputs} {o : Outputs}
    (h : branchOnTwo c rs rt imm inp = .ok o) : ∃ t, o = .branch t (branchTarget inp.pc imm) := by
  obtain ⟨a, ha⟩ := Operand.use_ok h
  obtain ⟨b, hb⟩ := Operand.use_ok ha
  exact ⟨c a b, (Except.ok.inj hb).symm⟩

/-- An activation answers a next state exactly by committing its handler's output signals (10_state.md R24). -/
theorem State.activate_next {s t : State} {rs rt : Reg} {h : Inputs → Except Fault Outputs}
    (ht : s.activate rs rt h = .next t) : ∃ o, h (s.inputs rs rt) = .ok o ∧ t = s.commit o := by
  unfold State.activate at ht
  split at ht
  · rename_i o ho
    exact ⟨o, ho, (Host.Outcome.next.inj ht).symm⟩
  · cases ht

/-- Every activation is one handler's work on the snapshot of its two read ports (10_state.md R24, R25). -/
theorem exec_activates (i : Instr) :
    ∃ h : Inputs → Except Fault Outputs, ∀ s, exec i s = s.activate i.portS i.portT h := by
  cases i <;> simp only [exec, Instr.portS, Instr.portT, execAnd, execOr, execNor, execXor, execSll, execSra, execSrl,
    execSllv, execSrav, execSrlv, execAndi, execOri, execXori, execLui, execAddi, execAddiu,
    execSlti, execSltiu, execBeq, execBne, execBlez, execBgtz, execBltz, execBgez, execBltzal,
    execBgezal]
  all_goals exact ⟨_, fun _ => rfl⟩

/-- The output signals an activation of `i` in `s` can commit (10_state.md R27, R28; 60_exceptions.md R143). -/
inductive Drives (i : Instr) (s : State) : Outputs → Prop where
  | gpr {d : Reg} (v : Word) (hd : i.destination = some d) (hl : i.handler ≠ .bltzal ∧ i.handler ≠ .bgezal) :
      Drives i s (.gpr d v)
  | branch (taken : Bool) (imm : Half) (hd : i.destination = none) :
      Drives i s (.branch taken (branchTarget s.pc imm))
  | branchLink (taken : Bool) (imm : Half) (hd : i.destination = some linkReg)
      (hl : i.handler = .bltzal ∨ i.handler = .bgezal) :
      Drives i s (.branchLink taken (branchTarget s.pc imm) (linkValue s.pc))
  | trap (hi : i.handler = .addi) (he : s.exl = false) : Drives i s (.trapTo s.cfg.trapAddr)
  | suppressed (hi : i.handler = .addi) (he : s.exl = true) : Drives i s .suppressed

/-- A next state is the commit of signals the instruction can drive: what one activation can do. -/
theorem exec_next_cases {i : Instr} {s t : State} (h : exec i s = .next t) : ∃ o, Drives i s o ∧ t = s.commit o := by
  cases i <;> simp only [exec, execAnd, execOr, execNor, execXor, execSll, execSra, execSrl, execSllv, execSrav,
    execSrlv, execAndi, execOri, execXori, execLui, execAddi, execAddiu, execSlti, execSltiu,
    execBeq, execBne, execBlez, execBgtz, execBltz, execBgez, execBltzal, execBgezal] at h
  case addi rt rs imm =>
    obtain ⟨o, ho, rfl⟩ := State.activate_next h
    obtain ⟨a, ha⟩ := Operand.use_ok ho
    cases ha
    refine ⟨_, ?_, rfl⟩
    cases hv : ovfAdd a (sext32 imm) (a + sext32 imm)
    · exact .gpr _ rfl ⟨by simp [Instr.handler], by simp [Instr.handler]⟩
    · cases he : s.exl
      · simpa [State.inputs, he, arbitrate, decidedSum] using Drives.trap (i := .addi rt rs imm) rfl he
      · simpa [State.inputs, he, arbitrate, decidedSum] using Drives.suppressed (i := .addi rt rs imm) rfl he
  all_goals
    obtain ⟨o, ho, rfl⟩ := State.activate_next h
    refine ⟨o, ?_, rfl⟩
    first
      | (obtain ⟨a, b, rfl⟩ := bothSources_ok ho
         exact .gpr _ rfl ⟨by simp [Instr.handler], by simp [Instr.handler]⟩)
      | (obtain ⟨a, rfl⟩ := firstSource_ok ho
         exact .gpr _ rfl ⟨by simp [Instr.handler], by simp [Instr.handler]⟩)
      | (obtain ⟨b, rfl⟩ := secondSource_ok ho
         exact .gpr _ rfl ⟨by simp [Instr.handler], by simp [Instr.handler]⟩)
      | (obtain ⟨c, rfl⟩ := branchOn_ok ho
         exact .branch c _ rfl)
      | (obtain ⟨c, rfl⟩ := branchOnTwo_ok ho
         exact .branch c _ rfl)
      | (obtain ⟨c, rfl⟩ := branchLinkOn_ok ho
         exact .branchLink c _ rfl (by simp [Instr.handler]))

/-- What no activation touches: the parameters, the program text and the outside sequencer's own state. -/
theorem exec_frame {i : Instr} {s t : State} (h : exec i s = .next t) :
    t.cfg = s.cfg ∧ t.mem = s.mem ∧ SameSequencer s t := by
  obtain ⟨o, -, rfl⟩ := exec_next_cases h
  exact ⟨by simp, by simp, by simp, by simp⟩

/-- The commit of a register write, a PC write or both is the change `CommitsExactly` states. -/
theorem State.commit_commitsExactly (s : State) (w : Option (Reg × Word)) (p : Option Word) :
    CommitsExactly s (s.commit { gprWrite := w, pcWrite := p, trap := false, decision := .commit }) w p where
  written d v hw hh := by simp [State.readGpr_commit, hw, hh]
  kept r hr := by
    rw [State.readGpr_commit]
    rcases w with _ | ⟨d, v⟩
    · rfl
    · simp only [ite_eq_right_iff, and_imp]
      intro hd hh
      simp [hr d v rfl hd] at hh
  pc := by simp
  outside := ⟨by simp, by simp, by simp, by simp, by simp⟩
  sequencer := ⟨by simp, by simp⟩
  signals := by simp

end Sys2Proof.Machine
end

