-- ==== Sys2Proof/Laws/Decode.lean ====
section
/-! SUPPORT. The fields of an encoded word (spec 30_encoding.md R51, R52), and masking one. -/

namespace Sys2Proof

@[simp] theorem Field.opcode_iWord (c : BitVec 6) (rt rs : Reg) (imm : Half) :
    Field.opcode (iWord c rt rs imm) = c := by
  apply BitVec.eq_of_getLsbD_eq
  intro i hi
  simp only [Field.opcode, iWord, BitVec.getLsbD_extractLsb', BitVec.getLsbD_append]
  repeat' split
  all_goals first
    | omega
    | (rw [decide_eq_true (by omega), Bool.true_and]; congr 1; omega)

@[simp] theorem Field.rs_iWord (c : BitVec 6) (rt rs : Reg) (imm : Half) :
    Field.rs (iWord c rt rs imm) = rs := by
  apply BitVec.eq_of_getLsbD_eq
  intro i hi
  simp only [Field.rs, iWord, BitVec.getLsbD_extractLsb', BitVec.getLsbD_append]
  repeat' split
  all_goals first
    | omega
    | (rw [decide_eq_true (by omega), Bool.true_and]; congr 1; omega)

@[simp] theorem Field.rt_iWord (c : BitVec 6) (rt rs : Reg) (imm : Half) :
    Field.rt (iWord c rt rs imm) = rt := by
  apply BitVec.eq_of_getLsbD_eq
  intro i hi
  simp only [Field.rt, iWord, BitVec.getLsbD_extractLsb', BitVec.getLsbD_append]
  repeat' split
  all_goals first
    | omega
    | (rw [decide_eq_true (by omega), Bool.true_and]; congr 1; omega)

@[simp] theorem Field.imm_iWord (c : BitVec 6) (rt rs : Reg) (imm : Half) :
    Field.imm (iWord c rt rs imm) = imm := by
  apply BitVec.eq_of_getLsbD_eq
  intro i hi
  simp only [Field.imm, iWord, BitVec.getLsbD_extractLsb', BitVec.getLsbD_append]
  repeat' split
  all_goals first
    | omega
    | (rw [decide_eq_true (by omega), Bool.true_and]; congr 1; omega)

@[simp] theorem Field.rd_rWord (f : BitVec 6) (rd rs rt : Reg) (sa : Shamt) :
    Field.rd (rWord f rd rs rt sa) = rd := by
  apply BitVec.eq_of_getLsbD_eq
  intro i hi
  simp only [Field.rd, rWord, iWord, BitVec.getLsbD_extractLsb', BitVec.getLsbD_append]
  repeat' split
  all_goals first
    | omega
    | (rw [decide_eq_true (by omega), Bool.true_and]; congr 1; omega)

@[simp] theorem Field.shamt_rWord (f : BitVec 6) (rd rs rt : Reg) (sa : Shamt) :
    Field.shamt (rWord f rd rs rt sa) = sa := by
  apply BitVec.eq_of_getLsbD_eq
  intro i hi
  simp only [Field.shamt, rWord, iWord, BitVec.getLsbD_extractLsb', BitVec.getLsbD_append]
  repeat' split
  all_goals first
    | omega
    | (rw [decide_eq_true (by omega), Bool.true_and]; congr 1; omega)

@[simp] theorem Field.funct_rWord (f : BitVec 6) (rd rs rt : Reg) (sa : Shamt) :
    Field.funct (rWord f rd rs rt sa) = f := by
  apply BitVec.eq_of_getLsbD_eq
  intro i hi
  simp only [Field.funct, rWord, iWord, BitVec.getLsbD_extractLsb', BitVec.getLsbD_append]
  repeat' split
  all_goals first
    | omega
    | (rw [decide_eq_true (by omega), Bool.true_and]; congr 1; omega)

@[simp] theorem Field.opcode_rWord (f : BitVec 6) (rd rs rt : Reg) (sa : Shamt) :
    Field.opcode (rWord f rd rs rt sa) = 0x00#6 := Field.opcode_iWord _ _ _ _

@[simp] theorem Field.rs_rWord (f : BitVec 6) (rd rs rt : Reg) (sa : Shamt) :
    Field.rs (rWord f rd rs rt sa) = rs := Field.rs_iWord _ _ _ _

@[simp] theorem Field.rt_rWord (f : BitVec 6) (rd rs rt : Reg) (sa : Shamt) :
    Field.rt (rWord f rd rs rt sa) = rt := Field.rt_iWord _ _ _ _

/-- Masking an I-type word masks its fields. -/
theorem iWord_and (c c' : BitVec 6) (rt rt' rs rs' : Reg) (imm imm' : Half) :
    iWord c rt rs imm &&& iWord c' rt' rs' imm' = iWord (c &&& c') (rt &&& rt') (rs &&& rs') (imm &&& imm') := by
  simp only [iWord, ← BitVec.and_append]

/-- The opcode bits of an I-type word. -/
theorem iWord_and_opcode (c : BitVec 6) (rt rs : Reg) (imm : Half) :
    iWord c rt rs imm &&& 0xFC000000 = iWord c 0 0 0 := by
  rw [show (0xFC000000 : Word) = iWord (BitVec.allOnes 6) 0 0 0 from by decide, iWord_and,
    BitVec.and_allOnes]
  simp only [BitVec.ofNat_eq_ofNat, BitVec.and_zero]

/-- The selector bits of a REGIMM word: opcode and rt. -/
theorem iWord_and_regimm (c : BitVec 6) (rt rs : Reg) (imm : Half) :
    iWord c rt rs imm &&& 0xFC1F0000 = iWord c rt 0 0 := by
  rw [show (0xFC1F0000 : Word) = iWord (BitVec.allOnes 6) (BitVec.allOnes 5) 0 0 from by decide, iWord_and,
    BitVec.and_allOnes, BitVec.and_allOnes]
  simp only [BitVec.ofNat_eq_ofNat, BitVec.and_zero]

/-- The selector bits of a SPECIAL word: opcode and funct. -/
theorem rWord_and_selectors (f : BitVec 6) (rd rs rt : Reg) (sa : Shamt) :
    rWord f rd rs rt sa &&& 0xFC00003F = rWord f 0 0 0 0 := by
  have himm : (rd ++ sa ++ f : BitVec (5 + 5 + 6)) &&& (0#5 ++ 0#5 ++ BitVec.allOnes 6) = 0#5 ++ 0#5 ++ f := by
    simp only [BitVec.and_append, BitVec.and_zero, BitVec.and_allOnes]
  rw [show (0xFC00003F : Word) = iWord (BitVec.allOnes 6) 0 0 (0#5 ++ 0#5 ++ BitVec.allOnes 6) from by decide]
  unfold rWord
  rw [iWord_and, BitVec.and_allOnes]
  simp only [BitVec.ofNat_eq_ofNat, BitVec.and_zero]
  exact congrArg (iWord 0x00#6 0#5 0#5) himm

end Sys2Proof
end

