-- ==== Sys2Proof/Laws/Memory.lean ====
section
/-! SUPPORT. The program text: reads after placements, and the canonical form every placement keeps (spec 20_memory.md
R42, 70_reset_and_hazards.md R161 step 1). -/

namespace Sys2Proof.Machine

theorem Memory.wfFrom_mono {l k : Nat} (hlk : l ≤ k) : ∀ {m}, Memory.wfFrom k m = true → Memory.wfFrom l m = true
  | [] => fun _ => rfl
  | (b, v) :: rest => by
    simp only [Memory.wfFrom, Bool.and_eq_true, decide_eq_true_eq]
    rintro ⟨⟨h1, h2⟩, h3⟩
    exact ⟨⟨by omega, h2⟩, h3⟩

/-- Placing a byte keeps the canonical form. -/
theorem Memory.write_wfFrom {a : Nat} (ha : a < 2 ^ 32) (v : Byte) :
    ∀ {m l}, l ≤ a → Memory.wfFrom l m = true → Memory.wfFrom l (Memory.write m a v) = true
  | [], l => by
    intro hl _
    simp [Memory.write, Memory.wfFrom, hl]; omega
  | (b, u) :: rest, l => by
    intro hl hm
    simp only [Memory.wfFrom, Bool.and_eq_true, decide_eq_true_eq] at hm
    obtain ⟨⟨h1, h2⟩, h3⟩ := hm
    simp only [Memory.write]
    split
    · simp only [Memory.wfFrom, Bool.and_eq_true, decide_eq_true_eq]
      exact ⟨⟨hl, ha⟩, ⟨by omega, h2⟩, h3⟩
    · split
      · subst_vars
        simp only [Memory.wfFrom, Bool.and_eq_true, decide_eq_true_eq]
        exact ⟨⟨hl, ha⟩, h3⟩
      · simp only [Memory.wfFrom, Bool.and_eq_true, decide_eq_true_eq]
        exact ⟨⟨h1, h2⟩, Memory.write_wfFrom ha v (by omega) h3⟩

theorem Memory.write_wf {m : List Host.Cell} {a : Nat} (ha : a < 2 ^ 32) (v : Byte) (h : Memory.wf m = true) :
    Memory.wf (Memory.write m a v) = true :=
  Memory.write_wfFrom ha v (Nat.zero_le a) h

/-- A read at the address just placed. -/
@[simp] theorem Memory.read_write_same (a : Nat) (v : Byte) : ∀ m, Memory.read (Memory.write m a v) a = some v
  | [] => by simp [Memory.write, Memory.read]
  | (b, u) :: rest => by
    simp only [Memory.write]
    split
    · simp [Memory.read]
    · split
      · simp [Memory.read]
      · rename_i hlt hne
        simp [Memory.read, Ne.symm hne, Memory.read_write_same a v rest]

/-- A read at any other address. -/
theorem Memory.read_write_other {a c : Nat} (v : Byte) (hac : a ≠ c) :
    ∀ m, Memory.read (Memory.write m a v) c = Memory.read m c
  | [] => by simp [Memory.write, Memory.read, hac]
  | (b, u) :: rest => by
    simp only [Memory.write]
    split
    · simp [Memory.read, hac]
    · split
      · rename_i h; subst h; simp [Memory.read, hac]
      · simp only [Memory.read]
        split
        · rfl
        · exact Memory.read_write_other v hac rest

/-- Placing bytes changes only the text, and keeps its canonical form. -/
theorem State.placeBytes_wf : ∀ (bs : List Byte) (s : State) (a : Word), Memory.wf s.mem = true →
    Memory.wf (s.placeBytes a bs).mem = true
  | [], _, _, h => h
  | b :: rest, _, a, h => State.placeBytes_wf rest _ _ (Memory.write_wf a.isLt b h)

theorem State.placeBytes_eq : ∀ (bs : List Byte) (s : State) (a : Word),
    s.placeBytes a bs = { s with mem := (s.placeBytes a bs).mem }
  | [], _, _ => rfl
  | _ :: rest, _, _ => by
    rw [State.placeBytes, State.placeBytes_eq rest]

theorem State.placeWord_wf (s : State) (a w : Word) (h : Memory.wf s.mem = true) :
    Memory.wf (s.placeWord a w).mem = true :=
  State.placeBytes_wf _ _ _ h

/-- Placing a word changes only the text. -/
theorem State.placeWord_eq (s : State) (a w : Word) :
    s.placeWord a w = { s with mem := (s.placeWord a w).mem } :=
  State.placeBytes_eq _ _ _

/-- A word laid out as bytes and assembled in the same byte order is the word (20_memory.md R43). -/
theorem assemble_layout_big (w : Word) :
    assembleWord .big (w.extractLsb' 24 8) (w.extractLsb' 16 8) (w.extractLsb' 8 8) (w.extractLsb' 0 8) = w := by
  apply BitVec.eq_of_getLsbD_eq
  intro i hi
  simp only [assembleWord, BitVec.getLsbD_append, BitVec.getLsbD_extractLsb']
  repeat' split
  all_goals
    rw [decide_eq_true (by omega), Bool.true_and]
    congr 1; omega

theorem assemble_layout_little (w : Word) :
    assembleWord .little (w.extractLsb' 0 8) (w.extractLsb' 8 8) (w.extractLsb' 16 8) (w.extractLsb' 24 8) = w :=
  assemble_layout_big w

end Sys2Proof.Machine
end

