-- ==== Sys2Proof/Laws/PerInstr.lean ====
section
/-! SUPPORT. The statements about every instruction as syntax, one lemma per constructor of `Instr`. -/

namespace Sys2Proof.Laws

/-- The word of an instruction carries the selector bits its row of spec/opcode_table.json fixes. -/
def TableRow.Statement (i : Instr) : Prop :=
  encode i &&& i.handler.mask = i.handler.pattern

theorem TableRow.and (rd rs rt : Reg) (sa : Shamt) : TableRow.Statement (.and rd rs rt sa) :=
  (rWord_and_selectors _ _ _ _ _).trans (show _ = Handler.pattern .and by decide)

theorem TableRow.or (rd rs rt : Reg) (sa : Shamt) : TableRow.Statement (.or rd rs rt sa) :=
  (rWord_and_selectors _ _ _ _ _).trans (show _ = Handler.pattern .or by decide)

theorem TableRow.nor (rd rs rt : Reg) (sa : Shamt) : TableRow.Statement (.nor rd rs rt sa) :=
  (rWord_and_selectors _ _ _ _ _).trans (show _ = Handler.pattern .nor by decide)

theorem TableRow.xor (rd rs rt : Reg) (sa : Shamt) : TableRow.Statement (.xor rd rs rt sa) :=
  (rWord_and_selectors _ _ _ _ _).trans (show _ = Handler.pattern .xor by decide)

theorem TableRow.sll (rd rs rt : Reg) (sa : Shamt) : TableRow.Statement (.sll rd rs rt sa) :=
  (rWord_and_selectors _ _ _ _ _).trans (show _ = Handler.pattern .sll by decide)

theorem TableRow.sra (rd rs rt : Reg) (sa : Shamt) : TableRow.Statement (.sra rd rs rt sa) :=
  (rWord_and_selectors _ _ _ _ _).trans (show _ = Handler.pattern .sra by decide)

theorem TableRow.srl (rd rs rt : Reg) (sa : Shamt) : TableRow.Statement (.srl rd rs rt sa) :=
  (rWord_and_selectors _ _ _ _ _).trans (show _ = Handler.pattern .srl by decide)

theorem TableRow.sllv (rd rs rt : Reg) (sa : Shamt) : TableRow.Statement (.sllv rd rs rt sa) :=
  (rWord_and_selectors _ _ _ _ _).trans (show _ = Handler.pattern .sllv by decide)

theorem TableRow.srav (rd rs rt : Reg) (sa : Shamt) : TableRow.Statement (.srav rd rs rt sa) :=
  (rWord_and_selectors _ _ _ _ _).trans (show _ = Handler.pattern .srav by decide)

theorem TableRow.srlv (rd rs rt : Reg) (sa : Shamt) : TableRow.Statement (.srlv rd rs rt sa) :=
  (rWord_and_selectors _ _ _ _ _).trans (show _ = Handler.pattern .srlv by decide)

theorem TableRow.andi (rt rs : Reg) (imm : Half) : TableRow.Statement (.andi rt rs imm) :=
  (iWord_and_opcode _ _ _ _).trans (show _ = Handler.pattern .andi by decide)

theorem TableRow.ori (rt rs : Reg) (imm : Half) : TableRow.Statement (.ori rt rs imm) :=
  (iWord_and_opcode _ _ _ _).trans (show _ = Handler.pattern .ori by decide)

theorem TableRow.xori (rt rs : Reg) (imm : Half) : TableRow.Statement (.xori rt rs imm) :=
  (iWord_and_opcode _ _ _ _).trans (show _ = Handler.pattern .xori by decide)

theorem TableRow.lui (rt rs : Reg) (imm : Half) : TableRow.Statement (.lui rt rs imm) :=
  (iWord_and_opcode _ _ _ _).trans (show _ = Handler.pattern .lui by decide)

theorem TableRow.addi (rt rs : Reg) (imm : Half) : TableRow.Statement (.addi rt rs imm) :=
  (iWord_and_opcode _ _ _ _).trans (show _ = Handler.pattern .addi by decide)

theorem TableRow.addiu (rt rs : Reg) (imm : Half) : TableRow.Statement (.addiu rt rs imm) :=
  (iWord_and_opcode _ _ _ _).trans (show _ = Handler.pattern .addiu by decide)

theorem TableRow.slti (rt rs : Reg) (imm : Half) : TableRow.Statement (.slti rt rs imm) :=
  (iWord_and_opcode _ _ _ _).trans (show _ = Handler.pattern .slti by decide)

theorem TableRow.sltiu (rt rs : Reg) (imm : Half) : TableRow.Statement (.sltiu rt rs imm) :=
  (iWord_and_opcode _ _ _ _).trans (show _ = Handler.pattern .sltiu by decide)

theorem TableRow.beq (rs rt : Reg) (imm : Half) : TableRow.Statement (.beq rs rt imm) :=
  (iWord_and_opcode _ _ _ _).trans (show _ = Handler.pattern .beq by decide)

theorem TableRow.bne (rs rt : Reg) (imm : Half) : TableRow.Statement (.bne rs rt imm) :=
  (iWord_and_opcode _ _ _ _).trans (show _ = Handler.pattern .bne by decide)

theorem TableRow.blez (rs rt : Reg) (imm : Half) : TableRow.Statement (.blez rs rt imm) :=
  (iWord_and_opcode _ _ _ _).trans (show _ = Handler.pattern .blez by decide)

theorem TableRow.bgtz (rs rt : Reg) (imm : Half) : TableRow.Statement (.bgtz rs rt imm) :=
  (iWord_and_opcode _ _ _ _).trans (show _ = Handler.pattern .bgtz by decide)

theorem TableRow.bltz (rs : Reg) (imm : Half) : TableRow.Statement (.bltz rs imm) :=
  (iWord_and_regimm _ _ _ _).trans (show _ = Handler.pattern .bltz by decide)

theorem TableRow.bgez (rs : Reg) (imm : Half) : TableRow.Statement (.bgez rs imm) :=
  (iWord_and_regimm _ _ _ _).trans (show _ = Handler.pattern .bgez by decide)

theorem TableRow.bltzal (rs : Reg) (imm : Half) : TableRow.Statement (.bltzal rs imm) :=
  (iWord_and_regimm _ _ _ _).trans (show _ = Handler.pattern .bltzal by decide)

theorem TableRow.bgezal (rs : Reg) (imm : Half) : TableRow.Statement (.bgezal rs imm) :=
  (iWord_and_regimm _ _ _ _).trans (show _ = Handler.pattern .bgezal by decide)

end Sys2Proof.Laws
end

