-- ==== Sys2Proof/Laws/Sequencer.lean ====
section
/-! SUPPORT. What one step of the harness can answer (spec 70_reset_and_hazards.md R164). -/

namespace Sys2Proof.Machine

/-! The advance, field by field: under every policy it touches only the PC, the waiting target and the counter. -/

@[simp] theorem State.advance_cfg (s : State) (a : Word) : (s.advance a).cfg = s.cfg := by
  simp only [State.advance, State.advanceIfNotWritten, State.advanceDelaySlot, State.advanceOther]
  repeat' split
  all_goals rfl

@[simp] theorem State.advance_gpr (s : State) (a : Word) : (s.advance a).gpr = s.gpr := by
  simp only [State.advance, State.advanceIfNotWritten, State.advanceDelaySlot, State.advanceOther]
  repeat' split
  all_goals rfl

@[simp] theorem State.advance_written (s : State) (a : Word) : (s.advance a).written = s.written := by
  simp only [State.advance, State.advanceIfNotWritten, State.advanceDelaySlot, State.advanceOther]
  repeat' split
  all_goals rfl

@[simp] theorem State.advance_exl (s : State) (a : Word) : (s.advance a).exl = s.exl := by
  simp only [State.advance, State.advanceIfNotWritten, State.advanceDelaySlot, State.advanceOther]
  repeat' split
  all_goals rfl

@[simp] theorem State.advance_excCode (s : State) (a : Word) : (s.advance a).excCode = s.excCode := by
  simp only [State.advance, State.advanceIfNotWritten, State.advanceDelaySlot, State.advanceOther]
  repeat' split
  all_goals rfl

@[simp] theorem State.advance_epc (s : State) (a : Word) : (s.advance a).epc = s.epc := by
  simp only [State.advance, State.advanceIfNotWritten, State.advanceDelaySlot, State.advanceOther]
  repeat' split
  all_goals rfl

@[simp] theorem State.advance_out (s : State) (a : Word) : (s.advance a).out = s.out := by
  simp only [State.advance, State.advanceIfNotWritten, State.advanceDelaySlot, State.advanceOther]
  repeat' split
  all_goals rfl

@[simp] theorem State.advance_mem (s : State) (a : Word) : (s.advance a).mem = s.mem := by
  simp only [State.advance, State.advanceIfNotWritten, State.advanceDelaySlot, State.advanceOther]
  repeat' split
  all_goals rfl

/-- The advance under the reference policy (70_reset_and_hazards.md R164). -/
theorem State.advance_reference {s : State} (h : s.cfg.harness = .advanceIfNotWritten) (a : Word) :
    s.advance a = if s.out.pcWrite = none then { s with pc := s.pc + 4 } else s := by
  simp only [State.advance, h, State.advanceIfNotWritten]
  cases s.out.pcWrite <;> rfl

/-- The advance under the delay-slot policy (42_branch.md R126). -/
theorem State.advance_execDelaySlot {s : State} (h : s.cfg.harness = .execDelaySlot) (a : Word) :
    s.advance a = if s.out.trap = true then { s with delayed := none }
      else { s with pc := s.delayed.getD (a + 4), delayed := s.out.pcWrite } := by
  simp only [State.advance, h, State.advanceDelaySlot]

/-- The advance under a policy the spec leaves open (92_eei_decisions.md D9). -/
theorem State.advance_otherPolicy {s : State} {n : Nat} (h : s.cfg.harness = .otherPolicy n) (a : Word) :
    s.advance a = { s with
      pc := Config.freeNextPc n s.turn a s.out.pcWrite s.out.trap
      turn := s.turn + 1 } := by
  simp only [State.advance, h, State.advanceOther]

@[simp] theorem State.readGpr_advance (s : State) (a : Word) (r : Reg) : (s.advance a).readGpr r = s.readGpr r :=
  State.readGpr_congr (by simp) (by simp) (by simp) r

/-- The harness fetches at aligned addresses only (20_memory.md R44). -/
theorem State.fetch_ok {s : State} {w : Word} (h : s.fetch = .ok w) :
    aligned s.pc = true ∧ s.fetchWordAt s.pc = .ok w := by
  unfold State.fetch at h
  split at h
  · rename_i ha; exact ⟨ha, h⟩
  · cases h

/-- A step answers a next state exactly by fetching a word, decoding it, running its activation and advancing the PC. -/
theorem step_next {s t : State} (h : step s = .next t) :
    ∃ w i u, s.fetch = .ok w ∧ decode w = .ok i ∧ exec i s = .next u ∧ t = u.advance s.pc := by
  unfold step at h
  split at h
  · cases h
  · rename_i w hw
    split at h
    · cases h
    · rename_i i hi
      refine ⟨w, i, ?_⟩
      cases hx : exec i s with
      | next u =>
        rw [hx] at h
        exact ⟨u, hw, hi, rfl, (Host.Outcome.next.inj h).symm⟩
      | fault f => rw [hx] at h; cases h
      | refused r => rw [hx] at h; cases h

/-- What one step can do: it commits signals an instruction drives, and advances the PC. -/
theorem step_next_cases {s t : State} (h : step s = .next t) :
    aligned s.pc = true ∧ ∃ i o, Drives i s o ∧ t = (s.commit o).advance s.pc := by
  obtain ⟨w, i, u, hw, -, hu, rfl⟩ := step_next h
  obtain ⟨o, ho, rfl⟩ := exec_next_cases hu
  exact ⟨(State.fetch_ok hw).1, i, o, ho, rfl⟩

end Sys2Proof.Machine
end

