-- ==== Sys2Proof/Machine/Trace.lean ====
section
/-! DEFINITION. The content of the trace side channel (spec 10_state.md R30): which mnemonic and which decoded operands
an activation names. The spec gives the string no format, so no text is modelled (log 11). It is no part of the state
and no rule depends on it. -/

namespace Sys2Proof.Machine

/-- One operand a trace names. -/
inductive TraceOperand where
  /-- A register, by the display name `REG_NAME` gives its index (00_scope.md R8). -/
  | register (name : String)
  /-- A constant shift count. -/
  | count (sa : Shamt)
  /-- An immediate, shown in hexadecimal. -/
  | immediate (imm : Half)
deriving DecidableEq, Repr

/-- What the trace of one activation names. -/
structure Trace where
  mnemonic : String
  operands : List TraceOperand
deriving DecidableEq, Repr

/-- A register as the trace shows it: by its display name (`REG_NAME`, R8). -/
def TraceOperand.named (c : Config) (i : Reg) : TraceOperand :=
  .register c.regName[i.toNat]

/-- The operands in the order of 30_encoding.md R66 (PRESUMED, log 11). -/
def traceOperands (c : Config) (i : Instr) : List TraceOperand :=
  match i with
  | .and rd rs rt _ => [.named c rd, .named c rs, .named c rt]
  | .or rd rs rt _ => [.named c rd, .named c rs, .named c rt]
  | .nor rd rs rt _ => [.named c rd, .named c rs, .named c rt]
  | .xor rd rs rt _ => [.named c rd, .named c rs, .named c rt]
  | .sll rd _ rt sa => [.named c rd, .named c rt, .count sa]
  | .sra rd _ rt sa => [.named c rd, .named c rt, .count sa]
  | .srl rd _ rt sa => [.named c rd, .named c rt, .count sa]
  | .sllv rd rs rt _ => [.named c rd, .named c rt, .named c rs]
  | .srav rd rs rt _ => [.named c rd, .named c rt, .named c rs]
  | .srlv rd rs rt _ => [.named c rd, .named c rt, .named c rs]
  | .andi rt rs imm => [.named c rt, .named c rs, .immediate imm]
  | .ori rt rs imm => [.named c rt, .named c rs, .immediate imm]
  | .xori rt rs imm => [.named c rt, .named c rs, .immediate imm]
  | .lui rt _ imm => [.named c rt, .immediate imm]
  | .addi rt rs imm => [.named c rt, .named c rs, .immediate imm]
  | .addiu rt rs imm => [.named c rt, .named c rs, .immediate imm]
  | .slti rt rs imm => [.named c rt, .named c rs, .immediate imm]
  | .sltiu rt rs imm => [.named c rt, .named c rs, .immediate imm]
  | .beq rs rt imm => [.named c rs, .named c rt, .immediate imm]
  | .bne rs rt imm => [.named c rs, .named c rt, .immediate imm]
  | .blez rs _ imm => [.named c rs, .immediate imm]
  | .bgtz rs _ imm => [.named c rs, .immediate imm]
  | .bltz rs imm => [.named c rs, .immediate imm]
  | .bgez rs imm => [.named c rs, .immediate imm]
  | .bltzal rs imm => [.named c rs, .immediate imm]
  | .bgezal rs imm => [.named c rs, .immediate imm]

/-- The trace of an activation of `i`. -/
def traceOf (c : Config) (i : Instr) : Trace where
  mnemonic := i.handler.mnemonic
  operands := traceOperands c i

end Sys2Proof.Machine
end

