-- ==== Sys2Proof/Tests/Slice0.lean ====
section
/-! SUPPORT. The model's own tests. Expected values are the spec's: 95_test_vectors.md by its row ids, the examples of
40_logical_shift.md to 42_branch.md, words written out from the layouts of 30_encoding.md R51 and R61. -/

namespace Sys2Proof.Tests

open Sys2Proof.Machine

/-- The start state of a vector (95_test_vectors.md): pc 0x00400010, the given EXL, every register not listed
unwritten, the parameters of the launch but for the operand roles of a variable shift. -/
def launched (roles : VarShiftRoles) (exl : Bool) (regs : List (Reg × Word)) : State :=
  regs.foldl (fun s r => s.writeGpr r.1 r.2)
    (State.atReset { Launch.config with resetPc := 0x00400010, exlReset := exl, varShiftRoles := roles } 0 0)

/-- A vector's start state under the spec's defaults, EXL clear. -/
def start (regs : List (Reg × Word)) : State := launched .doc false regs

/-- One activation on a word. -/
def activation (w : Word) (s : State) : Result :=
  match decode w with
  | .ok i => exec i s
  | .error _ => refuseUnrouted w

/-- The output signals of an activation that has a next state. -/
def outs (r : Result) : Option Outputs :=
  match r with
  | .next t => some t.out
  | .fault _ => none
  | .refused _ => none

/-- The fault an activation ends in. -/
def faultOf (r : Result) : Option Fault :=
  match r with
  | .fault f => some f
  | .next _ => none
  | .refused _ => none

/-- The refusal an activation ends in. -/
def refusalOf (r : Result) : Option Refusal :=
  match r with
  | .refused x => some x
  | .next _ => none
  | .fault _ => none

/-- What a register reads after an activation. -/
def reads (r : Result) (i : Reg) : Option Word :=
  match r with
  | .next t => t.readGpr i
  | .fault _ => none
  | .refused _ => none

/-- The PC and the CP0 fields after an activation. -/
def control (r : Result) : Option (Word × Bool × BitVec 5 × Word) :=
  match r with
  | .next t => some (t.pc, t.exl, t.excCode, t.epc)
  | .fault _ => none
  | .refused _ => none

/-! Words that are no instruction, one for each way to be none (30_encoding.md R63). -/

/-- MIPS32 `add` (95 X1): SPECIAL with a funct no handler has. -/
theorem test_illformed_special : WordWellFormed 0x01095020 = false ∧ decode 0x01095020 = .error (.notRouted 0x01095020) := by
  decide

/-- MIPS32 `bltzl` (95 X5): REGIMM with an rt no handler has. -/
theorem test_illformed_regimm : WordWellFormed 0x05020003 = false ∧ decode 0x05020003 = .error (.notRouted 0x05020003) := by
  decide

/-- MIPS32 `j` (95 X4): an opcode no handler has. -/
theorem test_illformed_opcode : WordWellFormed 0x08000000 = false ∧ decode 0x08000000 = .error (.notRouted 0x08000000) := by
  decide

/-- Fewer than four bytes. -/
theorem test_truncated : decodeBytes .big [0x01, 0x09, 0x50] = .error .truncated := by decide

/-- The bytes of one word in both byte orders. -/
theorem test_byte_orders : decodeBytes .big [0x3C, 0x09, 0x12, 0x34] = .ok (.lui 9 0 0x1234, []) ∧
    decodeBytes .little [0x34, 0x12, 0x09, 0x3C, 0xFF] = .ok (.lui 9 0 0x1234, [0xFF]) := by decide

/-! One word of each instruction, written field by field: opcode_rs_rt_rd_shamt_funct or opcode_rs_rt_immediate (R51).
Fields: rs = 8, rt = 9, rd = 10, and the ignored fields not zero. -/

theorem test_decode_and : decode 0b000000_01000_01001_01010_00011_100100 = .ok (.and 10 8 9 3) := by decide

theorem test_decode_or : decode 0b000000_01000_01001_01010_00011_100101 = .ok (.or 10 8 9 3) := by decide

theorem test_decode_nor : decode 0b000000_01000_01001_01010_00011_100111 = .ok (.nor 10 8 9 3) := by decide

theorem test_decode_xor : decode 0b000000_01000_01001_01010_00011_100110 = .ok (.xor 10 8 9 3) := by decide

theorem test_decode_sll : decode 0b000000_01000_01001_01010_00011_000000 = .ok (.sll 10 8 9 3) := by decide

theorem test_decode_sra : decode 0b000000_01000_01001_01010_00011_000011 = .ok (.sra 10 8 9 3) := by decide

theorem test_decode_srl : decode 0b000000_01000_01001_01010_00011_000010 = .ok (.srl 10 8 9 3) := by decide

theorem test_decode_sllv : decode 0b000000_01000_01001_01010_00011_000100 = .ok (.sllv 10 8 9 3) := by decide

theorem test_decode_srav : decode 0b000000_01000_01001_01010_00011_000111 = .ok (.srav 10 8 9 3) := by decide

theorem test_decode_srlv : decode 0b000000_01000_01001_01010_00011_000110 = .ok (.srlv 10 8 9 3) := by decide

theorem test_decode_andi : decode 0b001100_01000_01001_1000000000000101 = .ok (.andi 9 8 0x8005) := by decide

theorem test_decode_ori : decode 0b001101_01000_01001_1000000000000101 = .ok (.ori 9 8 0x8005) := by decide

theorem test_decode_xori : decode 0b001110_01000_01001_1000000000000101 = .ok (.xori 9 8 0x8005) := by decide

theorem test_decode_lui : decode 0b001111_01000_01001_1000000000000101 = .ok (.lui 9 8 0x8005) := by decide

theorem test_decode_addi : decode 0b001000_01000_01001_1000000000000101 = .ok (.addi 9 8 0x8005) := by decide

theorem test_decode_addiu : decode 0b001001_01000_01001_1000000000000101 = .ok (.addiu 9 8 0x8005) := by decide

theorem test_decode_slti : decode 0b001010_01000_01001_1000000000000101 = .ok (.slti 9 8 0x8005) := by decide

theorem test_decode_sltiu : decode 0b001011_01000_01001_1000000000000101 = .ok (.sltiu 9 8 0x8005) := by decide

theorem test_decode_beq : decode 0b000100_01000_01001_1000000000000101 = .ok (.beq 8 9 0x8005) := by decide

theorem test_decode_bne : decode 0b000101_01000_01001_1000000000000101 = .ok (.bne 8 9 0x8005) := by decide

theorem test_decode_blez : decode 0b000110_01000_01001_1000000000000101 = .ok (.blez 8 9 0x8005) := by decide

theorem test_decode_bgtz : decode 0b000111_01000_01001_1000000000000101 = .ok (.bgtz 8 9 0x8005) := by decide

theorem test_decode_bltz : decode 0b000001_01000_00000_1000000000000101 = .ok (.bltz 8 0x8005) := by decide

theorem test_decode_bgez : decode 0b000001_01000_00001_1000000000000101 = .ok (.bgez 8 0x8005) := by decide

theorem test_decode_bltzal : decode 0b000001_01000_10000_1000000000000101 = .ok (.bltzal 8 0x8005) := by decide

theorem test_decode_bgezal : decode 0b000001_01000_10001_1000000000000101 = .ok (.bgezal 8 0x8005) := by decide


/-- A table word is decoded from its bytes, and one that fits no word is none. -/
theorem test_table_word : decodeTableWord 32 0x00095103 = some (.sra 10 0 9 4) ∧ decodeTableWord 32 0x100095103 = none := by
  decide

/-! One activation on each vector (95_test_vectors.md sections 1 and 2). -/

/-- 95 L1. -/
theorem test_and : outs (activation 0x01095024 (start [(8, 0xF0F0F0F0), (9, 0x0FF00FF0)])) = some (.gpr 10 0x00F000F0) := by decide

/-- 95 L9. -/
theorem test_and_to_zero : reads (activation 0x01090024 (start [(8, 0xFFFFFFFF), (9, 0xFFFFFFFF)])) 0 = some 0 := by decide

/-- 95 L4. -/
theorem test_or : outs (activation 0x01095025 (start [(8, 0xF0F0F0F0), (9, 0x0FF00FF0)])) = some (.gpr 10 0xFFF0FFF0) := by decide

/-- 95 W of R83: port T unwritten (as L10). -/
theorem test_or_unwritten : faultOf (activation 0x01095025 (start [(8, 0xFFFFFFFF)])) = some (.unwrittenRead 9) := by decide

/-- 95 L5. -/
theorem test_nor : outs (activation 0x01095027 (start [(8, 0xF0F0F0F0), (9, 0x0FF00FF0)])) = some (.gpr 10 0x000F000F) := by decide

/-- 95 L6. -/
theorem test_nor_zero : outs (activation 0x00005027 (start [])) = some (.gpr 10 0xFFFFFFFF) := by decide

/-- 95 L7. -/
theorem test_xor : outs (activation 0x01095026 (start [(8, 0xF0F0F0F0), (9, 0x0FF00FF0)])) = some (.gpr 10 0xFF00FF00) := by decide

/-- 95 L8. -/
theorem test_xor_same : reads (activation 0x01084026 (start [(8, 0xCAFEBABE)])) 8 = some 0 := by decide

/-- 95 I1. -/
theorem test_andi : outs (activation 0x3109FF00 (start [(8, 0xF0F0F0F0)])) = some (.gpr 9 0x0000F000) := by decide

/-- 95 I3. -/
theorem test_andi_all : outs (activation 0x3109FFFF (start [(8, 0xFFFFFFFF)])) = some (.gpr 9 0x0000FFFF) := by decide

/-- 95 I4. -/
theorem test_ori : outs (activation 0x35098001 (start [(8, 0xF0F0F0F0)])) = some (.gpr 9 0xF0F0F0F1) := by decide

/-- 95 I5. -/
theorem test_ori_zero : outs (activation 0x3409FFFF (start [])) = some (.gpr 9 0x0000FFFF) := by decide

/-- 95 I6. -/
theorem test_xori : outs (activation 0x3909FFFF (start [(8, 0xF0F0F0F0)])) = some (.gpr 9 0xF0F00F0F) := by decide

/-- 95 I7. -/
theorem test_xori_high : outs (activation 0x39098000 (start [(8, 0x00000000)])) = some (.gpr 9 0x00008000) := by decide

/-- 95 I8. -/
theorem test_lui : outs (activation 0x3C091234 (start [])) = some (.gpr 9 0x12340000) := by decide

/-- 95 I10. -/
theorem test_lui_rs_unwritten : outs (activation 0x3D09FFFF (start [])) = some (.gpr 9 0xFFFF0000) := by decide

/-- 95 S3. -/
theorem test_sll : outs (activation 0x000957C0 (start [(9, 0x80000001)])) = some (.gpr 10 0x80000000) := by decide

/-- 95 S11. -/
theorem test_sll_rs_unwritten : outs (activation 0x01095100 (start [(9, 0x0000000F)])) = some (.gpr 10 0x000000F0) := by decide

/-- 95 S5. -/
theorem test_sra : outs (activation 0x000957C3 (start [(9, 0x80000001)])) = some (.gpr 10 0xFFFFFFFF) := by decide

/-- 95 S7. -/
theorem test_sra_positive : outs (activation 0x000B5103 (start [(11, 0x7FFFFFF0)])) = some (.gpr 10 0x07FFFFFF) := by decide

/-- 95 S8. -/
theorem test_srl : outs (activation 0x000957C2 (start [(9, 0x80000001)])) = some (.gpr 10 0x00000001) := by decide

/-- 95 S10. -/
theorem test_srl_rs_one : outs (activation 0x00295102 (start [(9, 0x80000001)])) = some (.gpr 10 0x08000000) := by decide

/-- 95 VS1. -/
theorem test_sllv_doc : outs (activation 0x01095004 (start [(8, 0x80000001), (9, 0x00000024)])) = some (.gpr 10 0x00000010) := by decide

/-- 95 VS1. -/
theorem test_sllv_mips32 : outs (activation 0x01095004 (launched .mips32 false [(8, 0x80000001), (9, 0x00000024)])) = some (.gpr 10 0x00000048) := by decide

/-- 95 VS6. -/
theorem test_srav_doc : outs (activation 0x01095007 (start [(8, 0x80000000), (9, 0x0000003F)])) = some (.gpr 10 0xFFFFFFFF) := by decide

/-- 95 VS6. -/
theorem test_srav_mips32 : outs (activation 0x01095007 (launched .mips32 false [(8, 0x80000000), (9, 0x0000003F)])) = some (.gpr 10 0x0000003F) := by decide

/-- 95 VS5. -/
theorem test_srlv_doc : outs (activation 0x01095006 (start [(8, 0xFFFFFFFF), (9, 0x0000001F)])) = some (.gpr 10 0x00000001) := by decide

/-- 95 VS8. -/
theorem test_srlv_unwritten : faultOf (activation 0x01095006 (start [(8, 0x00000004)])) = some (.unwrittenRead 9) := by decide

/-- 95 A8. -/
theorem test_addi_trap : control (activation 0x21097FFF (start [(8, 0x7FFF8001)])) = some (Launch.trapAddr, true, 12, 0x00400010) := by decide

/-- 95 A3. -/
theorem test_addi_suppressed : outs (activation 0x21090001 (launched .doc true [(8, 0x7FFFFFFF)])) = some .suppressed := by decide

/-- 95 A14. -/
theorem test_addiu : outs (activation 0x25090001 (start [(8, 0xFFFFFFFF)])) = some (.gpr 9 0x00000000) := by decide

/-- 95 A15. -/
theorem test_addiu_sign : outs (activation 0x24098000 (start [])) = some (.gpr 9 0xFFFF8000) := by decide

/-- 95 A17. -/
theorem test_slti : outs (activation 0x2909FFFF (start [(8, 0xFFFFFFFE)])) = some (.gpr 9 0x00000001) := by decide

/-- 95 A20. -/
theorem test_slti_edge : outs (activation 0x29098000 (start [(8, 0x7FFFFFFF)])) = some (.gpr 9 0x00000000) := by decide

/-- 95 A24. -/
theorem test_sltiu : outs (activation 0x2D098000 (start [(8, 0x7FFFFFFF)])) = some (.gpr 9 0x00000001) := by decide

/-- 95 A25. -/
theorem test_sltiu_equal : outs (activation 0x2D098000 (start [(8, 0xFFFF8000)])) = some (.gpr 9 0x00000000) := by decide

/-- 95 B1. -/
theorem test_beq : outs (activation 0x11090004 (start [(8, 5), (9, 5)])) = some (.branch true 0x00400020) := by decide

/-- 95 B2. -/
theorem test_beq_not : outs (activation 0x11090004 (start [(8, 5), (9, 6)])) = some (.branch false 0) := by decide

/-- 95 B3. -/
theorem test_bne : outs (activation 0x1509FFFE (start [(8, 1), (9, 2)])) = some (.branch true 0x00400008) := by decide

/-- 95 W5b. -/
theorem test_bne_not : outs (activation 0x15090004 (start [(8, 5), (9, 5)])) = some (.branch false 0) := by decide

/-- 95 B7. -/
theorem test_blez : outs (activation 0x19000003 (start [(8, 0x80000000)])) = some (.branch true 0x0040001C) := by decide

/-- 95 B8. -/
theorem test_blez_not : outs (activation 0x19000003 (start [(8, 0x7FFFFFFF)])) = some (.branch false 0) := by decide

/-- 95 B12. -/
theorem test_bgtz_rt_unwritten : outs (activation 0x1D050003 (start [(8, 1)])) = some (.branch true 0x0040001C) := by decide

/-- 95 B9. -/
theorem test_bgtz_not : outs (activation 0x1D000003 (start [(8, 0)])) = some (.branch false 0) := by decide

/-- 95 B13. -/
theorem test_bltz : outs (activation 0x05000010 (start [(8, 0x80000000)])) = some (.branch true 0x00400050) := by decide

/-- 95 B14. -/
theorem test_bltz_not : outs (activation 0x05000010 (start [(8, 0)])) = some (.branch false 0) := by decide

/-- 95 B26. -/
theorem test_bgez : outs (activation 0x05017FFF (start [(8, 0)])) = some (.branch true 0x0042000C) := by decide

/-- 95 B16. -/
theorem test_bgez_not : outs (activation 0x05010010 (start [(8, 0xFFFFFFFF)])) = some (.branch false 0) := by decide

/-- 95 B22. -/
theorem test_bltzal_rs_31 : outs (activation 0x07F00002 (start [(31, 0x80000000)])) = some (.branchLink true 0x00400018 0x00400018) := by decide

/-- 95 B18. -/
theorem test_bltzal_not : outs (activation 0x05100003 (start [(8, 0)])) = some (.branchLink false 0 0x00400018) := by decide

/-- 95 B20. -/
theorem test_bgezal : outs (activation 0x05110003 (start [(8, 0)])) = some (.branchLink true 0x0040001C 0x00400018) := by decide

/-- 95 B19. -/
theorem test_bgezal_not : outs (activation 0x05110003 (start [(8, 0xFFFFFFFF)])) = some (.branchLink false 0 0x00400018) := by decide

/-! One step of the harness (70_reset_and_hazards.md R164). -/

/-- The PC after one step from reset on a word, and what register 9 reads. -/
def stepped (w : Nat) : Option (Word × Option Word) :=
  match step (State.reset.withFetchWord 32 w) with
  | .next t => some (t.pc, t.readGpr 9)
  | .fault _ => none
  | .refused _ => none

/-- An instruction that writes no PC: the harness adds 4. -/
theorem test_step_advances : stepped 0x21090001 = some (0x00400004, some 1) := by decide

/-- A taken branch with offset 0 stays at its own address: the harness adds nothing (95 B4). -/
theorem test_step_taken_branch : stepped 0x11080000 = some (0x00400000, some 0) := by decide

/-- `sub` is refused (95 X2). -/
theorem test_step_unrouted : refusalOf (step (State.reset.withFetchWord 32 0x01095022)) = some (.notRouted 0x01095022) := by
  decide

/-- A misaligned PC is a fault (20_memory.md R44). -/
theorem test_step_misaligned : faultOf (step { State.reset with pc := 0x00400002 }) = some (.misalignedFetch 0x00400002) := by
  decide

/-- Nothing placed at the PC (log 7). -/
theorem test_step_unplaced : faultOf (step State.reset) = some (.unplacedFetch 0x00400000) := by decide

/-- The outcome of an activation is one of five (60_exceptions.md R141). -/
theorem test_outcomes : outcomeOf (activation 0x21090001 (start [(8, 0x7FFFFFFF)])) = .trap ∧
    outcomeOf (activation 0x21090001 (start [])) = .fault ∧ outcomeOf (activation 0x01095020 (start [])) = .notRouted := by
  decide

/-- The names of a trace are those 10_state.md R13 lists for the indices of the fields, in the order of R66. -/
theorem test_trace : traceOf Launch.config (.sllv 10 8 31 0) =
    ⟨"sllv", [.register "$t2", .register "$ra", .register "$t0"]⟩ := rfl

/-! The policy `EXEC_DELAY_SLOT` (42_branch.md R126; log 16): a branch at 0x00400000, a second word in its slot. -/

/-- Reset under the delay-slot policy, with two words placed. -/
def slotted (branch slot : Word) : State :=
  ({ State.reset with cfg := { Launch.config with harness := .execDelaySlot } }.placeWord 0x00400000 branch).placeWord
    0x00400004 slot

/-- The state a step goes on in. -/
def after (r : Result) : State :=
  match r with
  | .next t => t
  | .fault _ => State.reset
  | .refused _ => State.reset

/-- `beq $t0, $t0, 3`, then `addi $t1, $t0, 1`: the slot's address, then the branch target, and the slot has run. -/
theorem test_delay_slot : (after (step (slotted 0x11080003 0x21090001))).pc = 0x00400004 ∧
    (after (step (after (step (slotted 0x11080003 0x21090001))))).pc = 0x0040000C ∧
    (after (step (after (step (slotted 0x11080003 0x21090001))))).readGpr 9 = some 1 := by decide

/-- An overflowing `addi` in the slot: EPC is its own address and the PC is the trap-entry address. -/
theorem test_trap_in_slot :
    control (step (after (step ((slotted 0x11080003 0x21090001).writeGpr 8 0x7FFFFFFF)))) =
      some (Launch.trapAddr, true, 12, 0x00400004) := by decide

/-! Witnesses: for each statement with hypotheses, a state and operands that meet all of them together; for a
statement of several clauses, one for each. -/

/-- `and $t2, $t0, $t1` with both registers written. -/
def pair : State := start [(8, 0xF0F0F0F0), (9, 0x0FF00FF0)]

/-- Text with one word at an aligned PC. -/
def placed (w : Nat) : State := State.reset.withFetchWord 32 w

theorem witness_EncodeOfDecodeIsIdentity : decode 0x01095024 = .ok (.and 10 8 9 0) := by decide

theorem witness_StepRunsDecodedInstruction :
    (placed 0x01095024).fetch = .ok 0x01095024 ∧ decode 0x01095024 = .ok (.and 10 8 9 0) := by decide

theorem witness_UnroutedWordIsRefused :
    (placed 0x01095020).fetch = .ok 0x01095020 ∧ ∀ h ∈ Handler.all, (0x01095020 : Word) &&& h.mask ≠ h.pattern := by decide

theorem witness_MisalignedPcFaults : ({ State.reset with pc := 0xFFFFFFFF } : State).pc.toNat % 4 ≠ 0 := by decide

theorem witness_PlacedWordIsFetched : ({ State.reset with pc := 0xFFFFFFFC } : State).pc.toNat % 4 = 0 := by decide

theorem witness_FetchAssemblesFourBytes_placed :
    (placed 0x3C091234).pc.toNat % 4 = 0 ∧ Memory.read (placed 0x3C091234).mem 0x00400000 = some 0x34 ∧
    Memory.read (placed 0x3C091234).mem 0x00400001 = some 0x12 ∧ Memory.read (placed 0x3C091234).mem 0x00400002 = some 0x09 ∧
    Memory.read (placed 0x3C091234).mem 0x00400003 = some 0x3C := by decide

/-- The first byte that is not placed, at each of the four places. -/
theorem witness_FetchAssemblesFourBytes_unplaced : ∀ k < 4,
    (∀ j < k, Memory.read (State.reset.placeBytes 0x00400000 (List.replicate k 1)).mem (0x00400000 + j) ≠ none) ∧
    Memory.read (State.reset.placeBytes 0x00400000 (List.replicate k 1)).mem (0x00400000 + k) = none := by decide

theorem witness_AndWritesConjunction :
    (0x01095024 : Word) &&& 0xFC00003F = 0x00000024 ∧ pair.readGpr 8 = some 0xF0F0F0F0 ∧
    pair.readGpr 9 = some 0x0FF00FF0 := by decide

theorem witness_OrWritesDisjunction :
    (0x01095025 : Word) &&& 0xFC00003F = 0x00000025 ∧ pair.readGpr 8 = some 0xF0F0F0F0 ∧
    pair.readGpr 9 = some 0x0FF00FF0 := by decide

theorem witness_NorWritesNegatedDisjunction :
    (0x01095027 : Word) &&& 0xFC00003F = 0x00000027 ∧ pair.readGpr 8 = some 0xF0F0F0F0 ∧
    pair.readGpr 9 = some 0x0FF00FF0 := by decide

theorem witness_XorWritesExclusiveOr :
    (0x01095026 : Word) &&& 0xFC00003F = 0x00000026 ∧ pair.readGpr 8 = some 0xF0F0F0F0 ∧
    pair.readGpr 9 = some 0x0FF00FF0 := by decide

theorem witness_SllShiftsLeftByConstant :
    (0x01095000 : Word) &&& 0xFC00003F = 0x00000000 ∧ pair.readGpr 9 = some 0x0FF00FF0 := by decide

theorem witness_SraShiftsRightKeepingSign :
    (0x01095003 : Word) &&& 0xFC00003F = 0x00000003 ∧ pair.readGpr 9 = some 0x0FF00FF0 := by decide

theorem witness_SrlShiftsRightZeroFilling :
    (0x01095002 : Word) &&& 0xFC00003F = 0x00000002 ∧ pair.readGpr 9 = some 0x0FF00FF0 := by decide

theorem witness_SllvShiftsLeftByRegister :
    (0x01095004 : Word) &&& 0xFC00003F = 0x00000004 ∧ pair.readGpr 8 = some 0xF0F0F0F0 ∧
    pair.readGpr 9 = some 0x0FF00FF0 := by decide

theorem witness_SravShiftsRightKeepingSignByRegister :
    (0x01095007 : Word) &&& 0xFC00003F = 0x00000007 ∧ pair.readGpr 8 = some 0xF0F0F0F0 ∧
    pair.readGpr 9 = some 0x0FF00FF0 := by decide

theorem witness_SrlvShiftsRightZeroFillingByRegister :
    (0x01095006 : Word) &&& 0xFC00003F = 0x00000006 ∧ pair.readGpr 8 = some 0xF0F0F0F0 ∧
    pair.readGpr 9 = some 0x0FF00FF0 := by decide

theorem witness_AndiMasksWithZeroExtended :
    (0x31090004 : Word) &&& 0xFC000000 = 0x30000000 ∧ pair.readGpr 8 = some 0xF0F0F0F0 := by decide

theorem witness_OriSetsWithZeroExtended :
    (0x35090004 : Word) &&& 0xFC000000 = 0x34000000 ∧ pair.readGpr 8 = some 0xF0F0F0F0 := by decide

theorem witness_XoriInvertsWithZeroExtended :
    (0x39090004 : Word) &&& 0xFC000000 = 0x38000000 ∧ pair.readGpr 8 = some 0xF0F0F0F0 := by decide

theorem witness_LuiLoadsUpperHalf : (0x3D090004 : Word) &&& 0xFC000000 = 0x3C000000 := by decide

theorem witness_AddiuAddsAndWraps :
    (0x25090004 : Word) &&& 0xFC000000 = 0x24000000 ∧ pair.readGpr 8 = some 0xF0F0F0F0 := by decide

theorem witness_SltiComparesSigned :
    (0x29090004 : Word) &&& 0xFC000000 = 0x28000000 ∧ pair.readGpr 8 = some 0xF0F0F0F0 := by decide

theorem witness_SltiuComparesSignExtendedUnsigned :
    (0x2D090004 : Word) &&& 0xFC000000 = 0x2C000000 ∧ pair.readGpr 8 = some 0xF0F0F0F0 := by decide

theorem witness_BeqBranchesOnEqual :
    (0x11090004 : Word) &&& 0xFC000000 = 0x10000000 ∧ pair.readGpr 8 = some 0xF0F0F0F0 ∧
    pair.readGpr 9 = some 0x0FF00FF0 := by decide

theorem witness_BneBranchesOnDifferent :
    (0x15090004 : Word) &&& 0xFC000000 = 0x14000000 ∧ pair.readGpr 8 = some 0xF0F0F0F0 ∧
    pair.readGpr 9 = some 0x0FF00FF0 := by decide

theorem witness_BlezBranchesOnNotPositive :
    (0x19090004 : Word) &&& 0xFC000000 = 0x18000000 ∧ pair.readGpr 8 = some 0xF0F0F0F0 := by decide

theorem witness_BgtzBranchesOnPositive :
    (0x1D090004 : Word) &&& 0xFC000000 = 0x1C000000 ∧ pair.readGpr 8 = some 0xF0F0F0F0 := by decide

theorem witness_BltzBranchesOnNegative :
    (0x05000004 : Word) &&& 0xFC1F0000 = 0x04000000 ∧ pair.readGpr 8 = some 0xF0F0F0F0 := by decide

theorem witness_BgezBranchesOnNotNegative :
    (0x05010004 : Word) &&& 0xFC1F0000 = 0x04010000 ∧ pair.readGpr 8 = some 0xF0F0F0F0 := by decide

theorem witness_BltzalAlwaysLinksAndBranchesOnNegative :
    (0x05100004 : Word) &&& 0xFC1F0000 = 0x04100000 ∧ pair.readGpr 8 = some 0xF0F0F0F0 := by decide

theorem witness_BgezalAlwaysLinksAndBranchesOnNotNegative :
    (0x05110004 : Word) &&& 0xFC1F0000 = 0x04110000 ∧ pair.readGpr 8 = some 0xF0F0F0F0 := by decide

/-- The three clauses of `addi`: the largest sum that does not overflow (95 A7), the smallest that does (A8) with EXL
clear, and the same with EXL set. -/
theorem witness_AddiAddsTrapsOrIsSuppressed :
    (0x21090001 : Word) &&& 0xFC000000 = 0x20000000 ∧
    ((start [(8, 0x7FFF8000)]).readGpr 8 = some 0x7FFF8000 ∧ ¬ SignsOverflow 0x7FFF8000 (sext32 0x7FFF) 0x7FFFFFFF) ∧
    ((start [(8, 0x7FFF8001)]).readGpr 8 = some 0x7FFF8001 ∧ SignsOverflow 0x7FFF8001 (sext32 0x7FFF) 0x80000000 ∧
      (start [(8, 0x7FFF8001)]).exl = false) ∧
    ((launched .doc true [(8, 0x7FFF8001)]).readGpr 8 = some 0x7FFF8001 ∧
      (launched .doc true [(8, 0x7FFF8001)]).exl = true) := by
  unfold SignsOverflow; decide

/-- Both signs of an overflow, and the boundary sums on either side of it (95 A4, A6, A7, A8). -/
theorem witness_OverflowDetectorIsExact :
    ovfAdd 0x80000000 (sext32 0xFFFF) 0x7FFFFFFF = true ∧ ovfAdd 0x80007FFF (sext32 0x8000) 0x7FFFFFFF = true ∧
    ovfAdd 0x80008000 (sext32 0x8000) 0x80000000 = false ∧ ovfAdd 0x7FFF8000 (sext32 0x7FFF) 0x7FFFFFFF = false ∧
    ovfAdd 0x7FFF8001 (sext32 0x7FFF) 0x80000000 = true := by decide

theorem witness_BranchAndLinkAddressesStayAligned : (0xFFFFFFFC : Word).toNat % 4 = 0 := by decide

/-- A hard-wired register 0, and register 0 of a machine without one. -/
theorem witness_RegisterZeroFollowsItsParameter : pair.cfg.r0Hardwired = true ∧
    (State.atReset { Launch.config with r0Hardwired := false } 0 0).cfg.r0Hardwired = false := by decide

/-- The three cases of an activation: port S unwritten, port T unwritten, neither. -/
theorem witness_ActivationFaultsExactlyOnUnwrittenUsedPort :
    ((Instr.and 10 8 9 0).handler.usesS = true ∧ (start []).readGpr (Instr.and 10 8 9 0).portS = none) ∧
    ((start [(8, 1)]).readGpr (Instr.and 10 8 9 0).portS = some 1 ∧ (Instr.and 10 8 9 0).handler.usesT = true ∧
      (start [(8, 1)]).readGpr (Instr.and 10 8 9 0).portT = none) ∧
    (pair.readGpr (Instr.and 10 8 9 0).portS ≠ none ∧ pair.readGpr (Instr.and 10 8 9 0).portT ≠ none) := by decide

/-- Two states that differ in a register the instruction does not read, in the text and in the last signals. -/
theorem witness_OutputsDependOnlyOnInputSignals :
    pair.readGpr 20 ≠ (({ pair with mem := [(0, 1)], out := .suppressed } : State).writeGpr 20 7).readGpr 20 ∧
    pair.cfg = (({ pair with mem := [(0, 1)], out := .suppressed } : State).writeGpr 20 7).cfg ∧
    pair.pc = (({ pair with mem := [(0, 1)], out := .suppressed } : State).writeGpr 20 7).pc ∧
    pair.exl = (({ pair with mem := [(0, 1)], out := .suppressed } : State).writeGpr 20 7).exl ∧
    pair.readGpr 8 = (({ pair with mem := [(0, 1)], out := .suppressed } : State).writeGpr 20 7).readGpr 8 ∧
    pair.readGpr 9 = (({ pair with mem := [(0, 1)], out := .suppressed } : State).writeGpr 20 7).readGpr 9 :=
  ⟨by decide, rfl, rfl, rfl, rfl, rfl⟩

theorem witness_OnlyTheDestinationIsWritten : (∃ t, exec (.and 10 8 9 0) pair = .next t) ∧
    (Instr.and 10 8 9 0).destination ≠ some 11 :=
  ⟨⟨_, rfl⟩, by decide⟩

/-- The three clauses: no branch, a taken branch, a trap. -/
theorem witness_PcIsWrittenOnlyByBranchesAndTraps : (∃ t, exec (.and 10 8 9 0) pair = .next t ∧ t.out.pcWrite = none) ∧
    (∃ t, exec (.bne 8 9 0xFFFE) pair = .next t ∧ t.out.pcWrite = some 0x00400008) ∧
    (∃ t, exec (.addi 9 8 1) (start [(8, 0x7FFFFFFF)]) = .next t ∧ t.out.trap = true) :=
  ⟨⟨_, rfl, rfl⟩, ⟨_, rfl, by decide⟩, ⟨_, rfl, by decide⟩⟩

/-- Both clauses: a trap, and an activation without one. -/
theorem witness_OnlyAnAddiOverflowTraps :
    (∃ t, exec (.addi 9 8 1) (start [(8, 0x7FFFFFFF)]) = .next t ∧ t.out.trap = true) ∧
    (∃ t, exec (.addi 9 8 1) (launched .doc true [(8, 0x7FFFFFFF)]) = .next t ∧ t.out.trap = false) :=
  ⟨⟨_, rfl, by decide⟩, ⟨_, rfl, by decide⟩⟩

/-- A state with EXL set whose step is an overflowing `addi`. -/
def trappedState : State := { placed 0x21090001 with exl := true }.writeGpr 8 0x7FFFFFFF

theorem witness_NoStepClearsExlOrClobbersATrap : trappedState.exl = true ∧ ∃ t, step trappedState = .next t :=
  ⟨by decide, _, rfl⟩

/-- An instruction that is no `addi`, with a next state and with a fault, and an `addi` that does not overflow. -/
theorem witness_ExlGatesOnlyTheOverflowTrap :
    (∀ rt rs imm a, Instr.and 10 8 9 0 = .addi rt rs imm → pair.readGpr rs = some a →
      ¬ SignsOverflow a (sext32 imm) (a + sext32 imm)) ∧
    (∃ t, exec (.and 10 8 9 0) pair = .next t) ∧ (∃ f, exec (.and 10 8 9 0) (start []) = .fault f) ∧
    (pair.readGpr 8 = some 0xF0F0F0F0 ∧ ¬ SignsOverflow 0xF0F0F0F0 (sext32 1) (0xF0F0F0F0 + sext32 1)) := by
  refine ⟨fun _ _ _ _ h => (by cases h), ⟨_, rfl⟩, ⟨_, rfl⟩, ?_⟩
  unfold SignsOverflow; decide

theorem witness_StepsLeaveTextAndParameters : ∃ t, step (placed 0x01095024) = .next t := ⟨_, rfl⟩

/-- A step with a PC write and a step without one, and a step under the delay-slot policy. -/
theorem witness_PcAfterAStep : (∃ t, step (placed 0x11080000) = .next t) ∧ (∃ t, step (placed 0x21090001) = .next t) ∧
    (placed 0x21090001).cfg.harness = .advanceIfNotWritten ∧ (slotted 0x11080003 0x21090001).cfg.harness = .execDelaySlot ∧
    (∃ t, step (slotted 0x11080003 0x21090001) = .next t) ∧
    ∃ t, step (after (step ((slotted 0x11080003 0x21090001).writeGpr 8 0x7FFFFFFF))) = .next t ∧ t.out.trap = true :=
  ⟨⟨_, rfl⟩, ⟨_, rfl⟩, rfl, rfl, ⟨_, rfl⟩, ⟨_, rfl, by decide⟩⟩

/-- A taken branch and the instruction in its slot. -/
theorem witness_DelaySlotExecutesBeforeTheBranch : (slotted 0x11080003 0x21090001).cfg.harness = .execDelaySlot ∧
    (slotted 0x11080003 0x21090001).delayed = none ∧
    ∃ t u, step (slotted 0x11080003 0x21090001) = .next t ∧ t.out.trap = false ∧ step t = .next u ∧
      u.out.trap = false :=
  ⟨rfl, rfl, _, _, rfl, by decide, rfl, by decide⟩

/-- Every register of reset holds a value, and a step from there has a next state. -/
theorem witness_NoUnwrittenReadOnceEveryRegisterIsWritten : (∀ r, (placed 0x01095024).readGpr r ≠ none) ∧
    ∃ t, step (placed 0x01095024) = .next t :=
  ⟨by decide, _, rfl⟩

theorem witness_StepKeepsInvariant : (placed 0x21090001).Inv ∧ ∃ t, step (placed 0x21090001) = .next t :=
  ⟨⟨by decide, by decide, by decide, fun _ h => (by cases h), by decide, by decide⟩, _, rfl⟩

theorem witness_ResetMeetsInvariant : Launch.config.resetPc.toNat % 4 = 0 := by decide

/-- Both sides of the equivalence hold of one state. -/
theorem witness_StepIsSafeExactlyWhen : (∃ t, step (placed 0x01095024) = .next t) ∧
    (placed 0x01095024).fetchWordAt (placed 0x01095024).pc = .ok 0x01095024 :=
  ⟨⟨_, rfl⟩, by decide⟩

theorem witness_LoadImmediateLoadsTheValue : pair.cfg.r0Hardwired = true ∧ (10 : Reg) ≠ 0 ∧
    pair.readGpr 8 = some 0xF0F0F0F0 := by decide

end Sys2Proof.Tests
end

section
/-! Alignment of addresses (spec 20_memory.md R44, 42_branch.md R124). -/

namespace Sys2Proof.Machine

theorem aligned_iff (a : Word) : aligned a = true ↔ a.toNat % 4 = 0 := by
  simp [aligned, ← BitVec.toNat_inj, BitVec.extractLsb'_toNat]

theorem aligned_add {a b : Word} (ha : aligned a = true) (hb : aligned b = true) : aligned (a + b) = true := by
  rw [aligned_iff] at *
  rw [BitVec.toNat_add]
  omega

theorem aligned_branchOffset (p : Half) : aligned (branchOffset p) = true := by
  rw [aligned_iff, branchOffset, BitVec.toNat_shiftLeft, Nat.shiftLeft_eq]
  omega

theorem aligned_branchTarget {pc : Word} (h : aligned pc = true) (p : Half) : aligned (branchTarget pc p) = true :=
  aligned_add h (aligned_branchOffset p)

theorem aligned_add_four {pc : Word} (h : aligned pc = true) : aligned (pc + 4) = true :=
  aligned_add h (by decide)

end Sys2Proof.Machine
end

section
/-! The clauses of the invariant on the registers, kept by the register write (spec 10_state.md R14, R16). -/

namespace Sys2Proof.Machine

theorem State.writeGpr_of_hardwired {s : State} {i : Reg} (h : s.hardwired i = true) (v : Word) :
    s.writeGpr i v = s := by
  simp [State.writeGpr, h]

/-- A commit leaves the register file as it was, or sets one register that is no hard-wired register 0 and marks it as
written. -/
theorem State.commit_registers (s : State) (o : Outputs) :
    ((s.commit o).gpr = s.gpr ∧ (s.commit o).written = s.written) ∨
      ∃ (i : Reg) (v : Word), s.hardwired i = false ∧ (s.commit o).gpr = s.gpr.set i.toNat v ∧
        (s.commit o).written = s.written.set i.toNat true := by
  rw [State.commit_gpr, State.commit_written]
  rcases o.gprWrite with _ | ⟨i, v⟩
  · exact .inl ⟨rfl, rfl⟩
  · cases h : s.hardwired i
    · exact .inr ⟨i, v, h, by simp [State.applyGprWrite, State.writeGpr, h]⟩
    · exact .inl (by simp [State.applyGprWrite, State.writeGpr_of_hardwired h])

/-- A commit leaves a hard-wired register 0 holding 0. -/
theorem State.commit_keeps_zero {s : State} (h : s.cfg.r0Hardwired = true → s.gpr[0] = 0) (o : Outputs)
    (hc : s.cfg.r0Hardwired = true) : (s.commit o).gpr[0] = 0 := by
  rcases s.commit_registers o with ⟨hg, -⟩ | ⟨i, v, hi, hg, -⟩
  · simpa [hg] using h hc
  · have h0 : i.toNat ≠ 0 := fun h0 => by
      simp [State.hardwired, hc, BitVec.eq_of_toNat_eq (y := 0#5) h0] at hi
    simpa [hg, h0] using h hc

/-- A commit leaves every register that is still unwritten holding 0. -/
theorem State.commit_keeps_unwritten {s : State} (h : ∀ j : Fin 32, s.written[j] = false → s.gpr[j] = 0) (o : Outputs)
    (j : Fin 32) (hj : (s.commit o).written[j] = false) : (s.commit o).gpr[j] = 0 := by
  rcases s.commit_registers o with ⟨hg, hw⟩ | ⟨i, v, -, hg, hw⟩
  · rw [hg]
    exact h j (hw ▸ hj)
  · have hij : i.toNat ≠ j.val := fun hij => by simp [hw, hij] at hj
    have hsj : s.written[j] = false := by simpa [hw, hij] using hj
    simpa [hg, hij] using h j hsj

end Sys2Proof.Machine
end

section
/-! The clauses of the invariant on the PC and the waiting branch target, kept by a step (spec 42_branch.md R126,
70_reset_and_hazards.md R164). -/

namespace Sys2Proof.Machine

/-- The PC write of an activation at an aligned address is aligned, unless it is that of a trap. -/
theorem Drives.pcWrite_aligned {i : Instr} {s : State} {o : Outputs} (ho : Drives i s o) (hpc : aligned s.pc = true)
    (ht : o.trap = false) {p : Word} (hp : o.pcWrite = some p) : aligned p = true := by
  cases ho with
  | gpr | suppressed => cases hp
  | trap => cases ht
  | branch taken imm | branchLink taken imm =>
    cases taken <;> cases hp
    exact aligned_branchTarget hpc imm

/-- Where the sequencer goes on under a policy the spec names, after signals whose PC write is aligned. -/
theorem State.advance_commit_pc_aligned {s : State} {o : Outputs} (hn : s.cfg.harness.named = true)
    (htr : aligned s.cfg.trapAddr = true) (hpc : aligned s.pc = true)
    (hd : ∀ a, s.delayed = some a → aligned a = true)
    (hp : o.trap = false → ∀ p, o.pcWrite = some p → aligned p = true) :
    aligned ((s.commit o).advance s.pc).pc = true := by
  have hc : aligned (s.commit o).pc = true := by
    rw [State.commit_pc]
    cases ht : o.trap
    · cases hw : o.pcWrite with
      | none => exact hpc
      | some p => exact hp ht p hw
    · exact htr
  cases hh : s.cfg.harness with
  | advanceIfNotWritten =>
    rw [State.advance_reference (by simp [hh])]
    split
    · exact aligned_add_four hc
    · exact hc
  | execDelaySlot =>
    rw [State.advance_execDelaySlot (by simp [hh])]
    split
    · exact hc
    · simp only [State.commit_delayed]
      cases hw : s.delayed with
      | none => exact aligned_add_four hpc
      | some a => exact hd a hw
  | otherPolicy n => simp [hh, Harness.named] at hn

/-- The target that waits after signals whose PC write is aligned. -/
theorem State.advance_commit_delayed_aligned {s : State} {o : Outputs}
    (hd : ∀ a, s.delayed = some a → aligned a = true)
    (hp : o.trap = false → ∀ p, o.pcWrite = some p → aligned p = true) :
    ∀ a, ((s.commit o).advance s.pc).delayed = some a → aligned a = true := by
  cases hh : s.cfg.harness with
  | advanceIfNotWritten =>
    rw [State.advance_reference (by simp [hh])]
    split <;> simpa using hd
  | execDelaySlot =>
    rw [State.advance_execDelaySlot (by simp [hh])]
    cases ht : o.trap
    · simpa [ht] using hp ht
    · simp [ht]
  | otherPolicy n =>
    rw [State.advance_otherPolicy (n := n) (by simp [hh])]
    simpa using hd

/-- Settles O52: the text, the parameters and EXL by the frame of the commit and the advance, the registers by the one
register a commit sets, the addresses by the alignment of every branch target. -/
theorem stepKeepsInvariant : Obligations.StepKeepsInvariant := by
  intro s t hs ht
  obtain ⟨hpc, i, o, ho, rfl⟩ := step_next_cases ht
  have hp : o.trap = false → ∀ p, o.pcWrite = some p → aligned p = true := fun h _ => ho.pcWrite_aligned hpc h
  exact
    { text := by simpa using hs.text
      zero := by simpa using State.commit_keeps_zero hs.zero o
      unwritten := by simpa using State.commit_keeps_unwritten hs.unwritten o
      alignedDelayed := State.advance_commit_delayed_aligned hs.alignedDelayed hp
      alignedPc := fun hn htr => State.advance_commit_pc_aligned (by simpa using hn) (by simpa using htr) hpc
        hs.alignedDelayed hp
      trapped := fun h => by
        have htrap : o.trap = true := by simpa using h
        simp [htrap] }

end Sys2Proof.Machine
end

section
/-! Register 0 (spec 10_state.md R14). -/

namespace Sys2Proof.Machine

theorem State.hardwired_zero (s : State) : s.hardwired 0 = s.cfg.r0Hardwired := by
  simp [State.hardwired]

/-- A register is not hard-wired when it is not register 0 or register 0 is an ordinary one. -/
theorem State.hardwired_eq_false {s : State} {i : Reg} (h : i ≠ 0 ∨ s.cfg.r0Hardwired = false) :
    s.hardwired i = false := by
  simp only [State.hardwired, Bool.and_eq_false_iff, beq_eq_false_iff_ne]
  exact h.symm

/-- Settles O42: the register file's read and write on a hard-wired and on an ordinary register. -/
theorem registerZeroFollowsItsParameter : Obligations.RegisterZeroFollowsItsParameter := by
  intro s i r v
  refine ⟨fun hc => ?_, fun hi => ?_⟩
  · have h0 : s.hardwired 0 = true := (State.hardwired_zero s).trans hc
    exact ⟨State.readGpr_hardwired h0, State.writeGpr_of_hardwired h0 v⟩
  · have hw : s.hardwired i = false := State.hardwired_eq_false hi
    exact ⟨by simp [State.readGpr_writeGpr, hw], fun hr => by simp [State.readGpr_writeGpr, hr.symm]⟩

end Sys2Proof.Machine
end

section
/-! The fault of an unwritten register on a used port (spec 10_state.md R15, R16; 95_test_vectors.md P5). -/

namespace Sys2Proof.Machine

/-- `r` is the answer of an activation in `s` that uses port S (index `rs`) if `usesS` holds, and then port T (index
`rt`) if `usesT` does: the fault of the first of them that is unwritten, else a next state. -/
def AnswersByPorts (s : State) (usesS usesT : Bool) (rs rt : Reg) (r : Result) : Prop :=
  if usesS = true ∧ s.readGpr rs = none then r = .fault (.unwrittenRead rs)
  else if usesT = true ∧ s.readGpr rt = none then r = .fault (.unwrittenRead rt)
  else ∃ t, r = .next t

theorem State.activate_usingBoth (s : State) (rs rt : Reg) (k : Inputs → Word → Word → Outputs) :
    AnswersByPorts s true true rs rt (s.activate rs rt fun inp =>
      (Operand.register rs inp.rsVal).use fun a => (Operand.register rt inp.rtVal).use fun b => .ok (k inp a b)) := by
  cases hs : s.readGpr rs <;> cases ht : s.readGpr rt <;>
    simp [AnswersByPorts, State.activate, State.inputs, hs, ht]

theorem State.activate_usingS (s : State) (rs rt : Reg) (k : Inputs → Word → Outputs) :
    AnswersByPorts s true false rs rt (s.activate rs rt fun inp =>
      (Operand.register rs inp.rsVal).use fun a => .ok (k inp a)) := by
  cases hs : s.readGpr rs <;> simp [AnswersByPorts, State.activate, State.inputs, hs]

theorem State.activate_usingT (s : State) (rs rt : Reg) (k : Inputs → Word → Outputs) :
    AnswersByPorts s false true rs rt (s.activate rs rt fun inp =>
      (Operand.register rt inp.rtVal).use fun b => .ok (k inp b)) := by
  cases ht : s.readGpr rt <;> simp [AnswersByPorts, State.activate, State.inputs, ht]

theorem State.activate_usingNone (s : State) (rs rt : Reg) (k : Inputs → Outputs) :
    AnswersByPorts s false false rs rt (s.activate rs rt fun inp => .ok (k inp)) := by
  simp [AnswersByPorts, State.activate]

/-- Each instruction's activation has one of the four shapes: which one is what `Handler.usesS` and `Handler.usesT`
say. -/
theorem exec_answersByPorts (i : Instr) (s : State) :
    AnswersByPorts s i.handler.usesS i.handler.usesT i.portS i.portT (exec i s) := by
  cases i <;> dsimp only [exec]
  case and | or | nor | xor | sllv | srav | srlv | beq | bne => exact s.activate_usingBoth _ _ _
  case sll | sra | srl => exact s.activate_usingT _ _ _
  case lui => exact s.activate_usingNone _ _ _
  case andi | ori | xori | addi | addiu | slti | sltiu => exact s.activate_usingS _ _ _
  case blez | bgtz | bltz | bgez | bltzal | bgezal => exact s.activate_usingS _ _ _

/-- Settles O43, by the shape of each instruction's activation. -/
theorem activationFaultsExactlyOnUnwrittenUsedPort : Obligations.ActivationFaultsExactlyOnUnwrittenUsedPort :=
  exec_answersByPorts

/-- Where every register holds a value, every instruction's activation answers a next state. -/
theorem exec_next_of_all_written {s : State} (h : ∀ r, s.readGpr r ≠ none) (i : Instr) : ∃ t, exec i s = .next t := by
  simpa [AnswersByPorts, h] using exec_answersByPorts i s

end Sys2Proof.Machine
end

section
/-! The fault `unwrittenRead` in a step (spec 10_state.md R16, 70_reset_and_hazards.md R164). -/

namespace Sys2Proof.Machine

theorem State.fetchByte_error {s : State} {a : Word} {f : Fault} (h : s.fetchByte a = .error f) :
    f = .unplacedFetch a := by
  unfold State.fetchByte at h
  split at h
  · cases h
  · exact (Except.error.inj h).symm

theorem State.fetchWordAt_error {s : State} {a : Word} {f : Fault} (h : s.fetchWordAt a = .error f) :
    ∃ b, f = .unplacedFetch b := by
  unfold State.fetchWordAt at h
  split at h
  · cases h
  all_goals
    cases h
    exact ⟨_, State.fetchByte_error ‹_›⟩

/-- A fetch stops only at a misaligned PC or at an address without text. -/
theorem State.fetch_error {s : State} {f : Fault} (h : s.fetch = .error f) :
    f = .misalignedFetch s.pc ∨ ∃ a, f = .unplacedFetch a := by
  unfold State.fetch at h
  split at h
  · exact .inr (State.fetchWordAt_error h)
  · exact .inl (Except.error.inj h).symm

/-- A step stops with a fault exactly where its fetch or its activation does. -/
theorem step_fault {s : State} {f : Fault} (h : step s = .fault f) :
    s.fetch = .error f ∨ ∃ i, exec i s = .fault f := by
  unfold step at h
  split at h
  · rename_i g hg
    cases h
    exact .inl hg
  · split at h
    · cases h
    · rename_i i hi
      refine .inr ⟨i, ?_⟩
      cases hx : exec i s with
      | next u => rw [hx] at h; cases h
      | fault g => rw [hx] at h; cases h; rfl
      | refused r => rw [hx] at h; cases h

/-- A commit leaves no register unwritten that was written. -/
theorem State.readGpr_commit_ne_none {s : State} {r : Reg} (h : s.readGpr r ≠ none) (o : Outputs) :
    (s.commit o).readGpr r ≠ none := by
  rw [State.readGpr_commit]
  split
  · split
    · exact Option.some_ne_none _
    · exact h
  · exact h

/-- Settles O59: neither the fetch nor an activation in such a state answers the fault, and a commit leaves no register
unwritten that was written. -/
theorem noUnwrittenReadOnceEveryRegisterIsWritten : Obligations.NoUnwrittenReadOnceEveryRegisterIsWritten := by
  intro s hs
  constructor
  · intro i h
    rcases step_fault h with hf | ⟨j, hx⟩
    · rcases State.fetch_error hf with hm | ⟨a, ha⟩
      · cases hm
      · cases ha
    · obtain ⟨t, ht⟩ := exec_next_of_all_written hs j
      cases ht.symm.trans hx
  · intro t ht r
    obtain ⟨-, i, o, -, rfl⟩ := step_next_cases ht
    simpa using State.readGpr_commit_ne_none (hs r) o

end Sys2Proof.Machine
end

section
/-! What an activation depends on (spec 10_state.md R24 to R26). -/

namespace Sys2Proof.Machine

/-- The register a commit writes reads the same in two states with the same parameters: the value written, or 0 in a
hard-wired register 0. -/
theorem State.readGpr_commit_written {s₁ s₂ : State} (hc : s₁.cfg = s₂.cfg) {o : Outputs} {d : Reg} {v : Word}
    (ho : o.gprWrite = some (d, v)) : (s₁.commit o).readGpr d = (s₂.commit o).readGpr d := by
  have hh : s₁.hardwired d = s₂.hardwired d := State.hardwired_congr hc d
  simp only [State.readGpr_commit, ho]
  cases h : s₂.hardwired d
  · simp [hh, h]
  · simp [hh, h, State.readGpr_hardwired]

/-- Settles O44: the handler of both activations works on one and the same snapshot, so it answers the same fault or
the same signals, and the commits of these agree. -/
theorem outputsDependOnlyOnInputSignals : Obligations.OutputsDependOnlyOnInputSignals := by
  intro i s₁ s₂ hcfg hpc hexl hS hT
  obtain ⟨handler, hx⟩ := exec_activates i
  have hin : s₁.inputs i.portS i.portT = s₂.inputs i.portS i.portT := by
    simp [State.inputs, hcfg, hpc, hexl, hS, hT]
  simp only [hx, State.activate, hin]
  cases handler (s₂.inputs i.portS i.portT) with
  | error f => exact .inr ⟨f, rfl, rfl⟩
  | ok o =>
    refine .inl ⟨_, _, rfl, rfl, by simp, by simp [hcfg, hpc], by simp [hexl], ?_, ?_, ?_⟩
    · intro ht
      rw [State.commit_out] at ht
      simp [ht, hcfg, hpc]
    · intro ht
      rw [State.commit_out] at ht
      simp [ht]
    · intro d v hw
      exact State.readGpr_commit_written hcfg (by simpa using hw)

end Sys2Proof.Machine
end

section
/-! What an activation writes: the one destination, the PC, the CP0 fields (spec 10_state.md R27 to R29). -/

namespace Sys2Proof.Machine

/-- The signals of an activation write no register but the instruction's destination. -/
theorem Drives.gprWrite_destination {i : Instr} {s : State} {o : Outputs} (ho : Drives i s o) {d : Reg} {v : Word}
    (hw : o.gprWrite = some (d, v)) : i.destination = some d := by
  cases ho with
  | gpr _ hd _ | branchLink _ _ hd _ => cases hw; exact hd
  | branch | trap | suppressed => cases hw

/-- Settles O45: the one register a commit changes is the destination. -/
theorem onlyTheDestinationIsWritten : Obligations.OnlyTheDestinationIsWritten := by
  intro i s t ht r hr
  obtain ⟨o, ho, rfl⟩ := exec_next_cases ht
  rw [State.readGpr_commit]
  split
  · rename_i d v hw
    have hdr : d ≠ r := fun h => hr (h ▸ ho.gprWrite_destination hw)
    simp [hdr]
  · rfl

/-- An instruction with an offset field is a branch: it drives no trap, and its PC write is that of its own target when
it is taken. -/
theorem exec_branch_next {i : Instr} {imm : Half} (hi : i.branchImm = some imm) {s t : State} (h : exec i s = .next t) :
    ∃ (taken : Bool) (o : Outputs), t = s.commit o ∧ o.trap = false ∧
      o.pcWrite = if taken then some (branchTarget s.pc imm) else none := by
  cases i <;> cases hi <;> dsimp only [exec] at h
  case beq | bne =>
    obtain ⟨o, ho, rfl⟩ := State.activate_next h
    obtain ⟨taken, rfl⟩ := branchOnTwo_ok ho
    exact ⟨taken, _, rfl, rfl, rfl⟩
  case blez | bgtz | bltz | bgez =>
    obtain ⟨o, ho, rfl⟩ := State.activate_next h
    obtain ⟨taken, rfl⟩ := branchOn_ok ho
    exact ⟨taken, _, rfl, rfl, rfl⟩
  case bltzal | bgezal =>
    obtain ⟨o, ho, rfl⟩ := State.activate_next h
    obtain ⟨taken, rfl⟩ := branchLinkOn_ok ho
    exact ⟨taken, _, rfl, rfl, rfl⟩

/-- An instruction without an offset field has a destination and is no branch and link. -/
theorem Instr.destination_of_not_branch {i : Instr} (hi : i.branchImm = none) :
    (∃ d, i.destination = some d) ∧ i.handler ≠ .bltzal ∧ i.handler ≠ .bgezal := by
  cases i <;> simp [Instr.branchImm, Instr.destination, Instr.handler] at hi ⊢

/-- An instruction without an offset field writes the PC only by the trap of an `addi`. -/
theorem Drives.pcWrite_of_not_branch {i : Instr} (hi : i.branchImm = none) {s : State} {o : Outputs}
    (ho : Drives i s o) :
    (o.trap = false ∧ o.pcWrite = none) ∨ (i.handler = .addi ∧ o = .trapTo s.cfg.trapAddr) := by
  obtain ⟨⟨d, hd⟩, hltz, hgez⟩ := Instr.destination_of_not_branch hi
  cases ho with
  | gpr | suppressed => exact .inl ⟨rfl, rfl⟩
  | trap ha => exact .inr ⟨ha, rfl⟩
  | branch _ _ hn => cases hn.symm.trans hd
  | branchLink _ _ _ hl => exact absurd hl (not_or_intro hltz hgez)

/-- Settles O46: a branch writes its own target, and any other instruction only traps. -/
theorem pcIsWrittenOnlyByBranchesAndTraps : Obligations.PcIsWrittenOnlyByBranchesAndTraps := by
  intro i s t ht
  cases hb : i.branchImm with
  | some imm =>
    obtain ⟨taken, o, rfl, htrap, hw⟩ := exec_branch_next hb ht
    cases taken
    · exact .inl (by simp [htrap, hw])
    · exact .inr (.inl ⟨rfl, imm, rfl, by simp [htrap, hw, branchTarget, branchOffset]⟩)
  | none =>
    obtain ⟨o, ho, rfl⟩ := exec_next_cases ht
    rcases ho.pcWrite_of_not_branch hb with ⟨htrap, hw⟩ | ⟨ha, rfl⟩
    · exact .inl (by simp [htrap, hw])
    · exact .inr (.inr ⟨ha, by simp [Outputs.trapTo]⟩)

/-- The commit of a trap's signals is trap entry (60_exceptions.md R144). -/
theorem State.commit_trapTo_trapEntered (s : State) : TrapEntered s (s.commit (.trapTo s.cfg.trapAddr)) where
  kept r := by simp [State.readGpr_commit, Outputs.trapTo]
  excCode := by simp [Outputs.trapTo]
  epc := by simp [Outputs.trapTo]
  pc := by simp [Outputs.trapTo]
  exl := by simp [Outputs.trapTo]
  cfg := by simp
  mem _ := by simp
  sequencer := ⟨by simp, by simp⟩
  signals := by simp [Outputs.trapTo]

/-- The detector's test is the document's overflow condition (41_imm_arith.md R103). -/
theorem ovfAdd_iff (a b sum : Word) : ovfAdd a b sum = true ↔ SignsOverflow a b sum := by
  simp [ovfAdd, SignsOverflow, and_assoc]

theorem arbitrate_eq_trap_iff (ovf exl : Bool) : arbitrate ovf exl = .trap ↔ ovf = true ∧ exl = false := by
  cases ovf <;> cases exl <;> decide

/-- An `addi`'s signals carry a trap exactly when the arbiter decides for one. -/
theorem decidedSum_trap_iff (d : Decision) (trapAddr : Word) (rt : Reg) (sum : Word) :
    (decidedSum d trapAddr rt sum).trap = true ↔ d = .trap := by
  cases d <;> simp [decidedSum, Outputs.gpr, Outputs.idle, Outputs.trapTo, Outputs.suppressed]

/-- Using a register operand that answers signals: the register holds a value, and they are the continuation's on it. -/
theorem Operand.use_register_ok {i : Reg} {val : Option Word} {k : Word → Except Fault Outputs} {o : Outputs}
    (h : (Operand.register i val).use k = .ok o) : ∃ a, val = some a ∧ k a = .ok o := by
  cases val with
  | none => cases h
  | some a => exact ⟨a, rfl, h⟩

/-- A trapping `addi` adds operands that overflow. -/
theorem exec_addi_trap {rt rs : Reg} {imm : Half} {s t : State} (h : exec (.addi rt rs imm) s = .next t)
    (ht : t.out.trap = true) :
    ∃ a, s.readGpr rs = some a ∧ SignsOverflow a (sext32 imm) (a + sext32 imm) := by
  dsimp only [exec] at h
  obtain ⟨o, ho, rfl⟩ := State.activate_next h
  obtain ⟨a, hrs, ha⟩ := Operand.use_register_ok ho
  cases ha
  rw [State.commit_out, decidedSum_trap_iff, arbitrate_eq_trap_iff, ovfAdd_iff] at ht
  exact ⟨a, hrs, ht.1⟩

/-- Signals that carry a trap are those of an `addi` with EXL clear. -/
theorem Drives.of_trap {i : Instr} {s : State} {o : Outputs} (ho : Drives i s o) (ht : o.trap = true) :
    i.handler = .addi ∧ s.exl = false ∧ o = .trapTo s.cfg.trapAddr := by
  cases ho with
  | trap hi he => exact ⟨hi, he, rfl⟩
  | gpr | branch | branchLink | suppressed => cases ht

theorem Instr.eq_addi_of_handler {i : Instr} (h : i.handler = .addi) : ∃ rt rs imm, i = .addi rt rs imm := by
  cases i <;> cases h
  exact ⟨_, _, _, rfl⟩

/-- Settles O47: only an `addi` drives a trap, and a commit without one leaves the CP0 fields alone. -/
theorem onlyAnAddiOverflowTraps : Obligations.OnlyAnAddiOverflowTraps := by
  intro i s t h
  obtain ⟨o, ho, hto⟩ := exec_next_cases h
  constructor
  · intro ht
    obtain ⟨hi, he, rfl⟩ := ho.of_trap (by simpa [hto] using ht)
    obtain ⟨rt, rs, imm, rfl⟩ := Instr.eq_addi_of_handler hi
    obtain ⟨a, hrs, hov⟩ := exec_addi_trap h ht
    exact ⟨he, hto ▸ s.commit_trapTo_trapEntered, rt, rs, imm, a, rfl, hrs, hov⟩
  · intro ht
    have htrap : o.trap = false := by simpa [hto] using ht
    simp [hto, htrap]

end Sys2Proof.Machine
end

section
/-! The fetch, outcome by outcome (spec 20_memory.md R42 to R44, 70_reset_and_hazards.md R164). -/

namespace Sys2Proof.Machine

theorem State.fetchByte_placed {s : State} {a : Word} {b : Byte} (h : Memory.read s.mem a.toNat = some b) :
    s.fetchByte a = .ok b := by
  simp [State.fetchByte, h]

theorem State.fetchByte_unplaced {s : State} {a : Word} (h : Memory.read s.mem a.toNat = none) :
    s.fetchByte a = .error (.unplacedFetch a) := by
  simp [State.fetchByte, h]

/-- The fetch of a word reads its four bytes in the order of their addresses and stops at the first that is missing. -/
theorem State.fetchWordAt_eq_bind (s : State) (a : Word) :
    s.fetchWordAt a = do
      let b0 ← s.fetchByte (a + BitVec.ofNat 32 0)
      let b1 ← s.fetchByte (a + BitVec.ofNat 32 1)
      let b2 ← s.fetchByte (a + BitVec.ofNat 32 2)
      let b3 ← s.fetchByte (a + BitVec.ofNat 32 3)
      return assembleWord s.cfg.endian b0 b1 b2 b3 := by
  simp only [State.fetchWordAt, BitVec.ofNat_eq_ofNat, BitVec.add_zero]
  cases s.fetchByte a with
  | error f => rfl
  | ok b0 =>
    cases s.fetchByte (a + 1#32) with
    | error f => rfl
    | ok b1 =>
      cases s.fetchByte (a + 2#32) with
      | error f => rfl
      | ok b2 => cases s.fetchByte (a + 3#32) <;> rfl

/-- Four placed bytes are fetched as the word they make. -/
theorem State.fetchWordAt_placed {s : State} {a : Word} {b : Nat → Byte}
    (h : ∀ k < 4, Memory.read s.mem (a + BitVec.ofNat 32 k).toNat = some (b k)) :
    s.fetchWordAt a = .ok (assembleWord s.cfg.endian (b 0) (b 1) (b 2) (b 3)) := by
  have hb : ∀ k < 4, s.fetchByte (a + BitVec.ofNat 32 k) = .ok (b k) := fun k hk => State.fetchByte_placed (h k hk)
  rw [State.fetchWordAt_eq_bind, hb 0 (by decide), hb 1 (by decide), hb 2 (by decide), hb 3 (by decide)]
  rfl

/-- The first of the four addresses without text is the one the fetch reports (log 7). -/
theorem State.fetchWordAt_unplaced {s : State} {a : Word} {k : Nat} (hk : k < 4)
    (hpre : ∀ j < k, Memory.read s.mem (a + BitVec.ofNat 32 j).toNat ≠ none)
    (h : Memory.read s.mem (a + BitVec.ofNat 32 k).toNat = none) :
    s.fetchWordAt a = .error (.unplacedFetch (a + BitVec.ofNat 32 k)) := by
  have hok : ∀ j < k, ∃ b, s.fetchByte (a + BitVec.ofNat 32 j) = .ok b := fun j hj =>
    (Option.ne_none_iff_exists'.mp (hpre j hj)).imp fun _ => State.fetchByte_placed
  have herr := State.fetchByte_unplaced h
  rw [State.fetchWordAt_eq_bind]
  match k with
  | 0 =>
    rw [herr]
    rfl
  | 1 =>
    obtain ⟨b0, h0⟩ := hok 0 (by decide)
    rw [h0, herr]
    rfl
  | 2 =>
    obtain ⟨b0, h0⟩ := hok 0 (by decide)
    obtain ⟨b1, h1⟩ := hok 1 (by decide)
    rw [h0, h1, herr]
    rfl
  | 3 =>
    obtain ⟨b0, h0⟩ := hok 0 (by decide)
    obtain ⟨b1, h1⟩ := hok 1 (by decide)
    obtain ⟨b2, h2⟩ := hok 2 (by decide)
    rw [h0, h1, h2, herr]
    rfl

theorem State.fetch_of_aligned {s : State} (h : s.pc.toNat % 4 = 0) : s.fetch = s.fetchWordAt s.pc :=
  if_pos ((aligned_iff _).2 h)

theorem State.fetch_of_misaligned {s : State} (h : s.pc.toNat % 4 ≠ 0) : s.fetch = .error (.misalignedFetch s.pc) :=
  if_neg (mt (aligned_iff _).1 h)

theorem step_of_fetch_error {s : State} {f : Fault} (h : s.fetch = .error f) : step s = .fault f := by
  simp [step, h]

/-- The four addresses of an aligned word do not wrap around the address space. -/
theorem toNat_add_of_aligned {a : Word} (h : a.toNat % 4 = 0) {k : Nat} (hk : k < 4) :
    (a + BitVec.ofNat 32 k).toNat = a.toNat + k := by
  rw [BitVec.toNat_add, BitVec.toNat_ofNat]
  omega

/-- Settles O10: the fetch looks at the alignment first, and the step stops where its fetch does. -/
theorem misalignedPcFaults : Obligations.MisalignedPcFaults :=
  fun _ h => step_of_fetch_error (State.fetch_of_misaligned h)

theorem assembleWord_eq (e : Endian) (b0 b1 b2 b3 : Byte) :
    assembleWord e b0 b1 b2 b3 = if e = .big then b0 ++ b1 ++ b2 ++ b3 else b3 ++ b2 ++ b1 ++ b0 := by
  cases e <;> rfl

/-- Settles O12: an aligned fetch reads four addresses that do not wrap, so it assembles their bytes or reports the first
that is missing. -/
theorem fetchAssemblesFourBytes : Obligations.FetchAssemblesFourBytes := by
  intro s hpc
  have hat : ∀ k < 4, (s.pc + BitVec.ofNat 32 k).toNat = s.pc.toNat + k := fun _ => toNat_add_of_aligned hpc
  constructor
  · intro b0 b1 b2 b3 h0 h1 h2 h3
    rw [State.fetch_of_aligned hpc, ← assembleWord_eq]
    refine State.fetchWordAt_placed (b := fun k => [b0, b1, b2, b3].getD k 0) fun k hk => ?_
    rw [hat k hk]
    match k with
    | 0 => exact h0
    | 1 => exact h1
    | 2 => exact h2
    | 3 => exact h3
  · intro k hk hpre hnone
    apply step_of_fetch_error
    rw [State.fetch_of_aligned hpc]
    refine State.fetchWordAt_unplaced hk (fun j hj => ?_) ?_
    · rw [hat j (by omega)]
      exact hpre j hj
    · rw [hat k hk]
      exact hnone

end Sys2Proof.Machine
end

section
/-! Program text placed and fetched again (spec 20_memory.md R42, R43, 70_reset_and_hazards.md R161 step 1). -/

namespace Sys2Proof.Machine

theorem add_one_add_ofNat (a : Word) (k : Nat) : a + 1 + BitVec.ofNat 32 k = a + BitVec.ofNat 32 (k + 1) := by
  rw [BitVec.add_assoc, Nat.add_comm k 1, BitVec.ofNat_add]
  rfl

/-- Placed bytes leave every address alone that is none of theirs. -/
theorem State.read_placeBytes_other {c : Nat} : ∀ (bs : List Byte) (s : State) (a : Word),
    (∀ k < bs.length, (a + BitVec.ofNat 32 k).toNat ≠ c) →
    Memory.read (s.placeBytes a bs).mem c = Memory.read s.mem c
  | [], _, _, _ => rfl
  | b :: rest, s, a, h => by
    have ha : a.toNat ≠ c := by simpa using h 0 (Nat.zero_lt_succ _)
    rw [State.placeBytes, State.read_placeBytes_other rest _ _ fun k hk => ?_]
    · exact Memory.read_write_other b ha s.mem
    · rw [add_one_add_ofNat]
      exact h (k + 1) (Nat.succ_lt_succ hk)

/-- Each placed byte is read at its own address, as long as the bytes do not run once around the address space. -/
theorem State.read_placeBytes_placed {bs : List Byte} (hlen : bs.length ≤ 2 ^ 32) (s : State) (a : Word) {k : Nat}
    (hk : k < bs.length) : Memory.read (s.placeBytes a bs).mem (a + BitVec.ofNat 32 k).toNat = some bs[k] := by
  induction bs generalizing s a k with
  | nil => cases hk
  | cons b rest ih =>
    rw [List.length_cons] at hlen
    rw [State.placeBytes]
    cases k with
    | zero =>
      have hother : ∀ j < rest.length, (a + 1 + BitVec.ofNat 32 j).toNat ≠ a.toNat := by
        intro j hj heq
        rw [add_one_add_ofNat, BitVec.toNat_add, BitVec.toNat_ofNat] at heq
        omega
      rw [BitVec.add_zero, State.read_placeBytes_other rest _ _ hother]
      exact Memory.read_write_same a.toNat b s.mem
    | succ k =>
      rw [← add_one_add_ofNat]
      exact ih (by omega) _ _ (Nat.lt_of_succ_lt_succ hk)

@[simp] theorem length_layoutWord (e : Endian) (w : Word) : (layoutWord e w).length = 4 := by
  cases e <;> rfl

/-- A word placed at an address is the word fetched there. -/
theorem State.fetchWordAt_placeWord (s : State) (a w : Word) : (s.placeWord a w).fetchWordAt a = .ok w := by
  have hread : ∀ k < 4, Memory.read (s.placeWord a w).mem (a + BitVec.ofNat 32 k).toNat =
      some ((layoutWord s.cfg.endian w).getD k 0) := by
    intro k hk
    have hk : k < (layoutWord s.cfg.endian w).length := by simpa using hk
    rw [List.getD_eq_getElem _ _ hk]
    exact State.read_placeBytes_placed (by simp) s a hk
  have hcfg : (s.placeWord a w).cfg = s.cfg := by rw [State.placeWord_eq]
  rw [State.fetchWordAt_placed hread, hcfg]
  cases s.cfg.endian with
  | big => exact congrArg _ (assemble_layout_big w)
  | little => exact congrArg _ (assemble_layout_little w)

theorem State.withFetchWord_eq_placeWord (s : State) (w : Word) :
    s.withFetchWord 32 w.toNat = s.placeWord s.pc w := by
  rw [State.withFetchWord, BitVec.ofNat_toNat, BitVec.setWidth_eq]

/-- Settles O11: a word laid out and assembled in one byte order is the word again, and the four bytes of a placement
at an aligned PC lie at the PC to PC + 3. -/
theorem placedWordIsFetched : Obligations.PlacedWordIsFetched := by
  intro s w hpc
  rw [State.withFetchWord_eq_placeWord]
  have heq := s.placeWord_eq s.pc w
  have hpc' : (s.placeWord s.pc w).pc = s.pc := by rw [heq]
  refine ⟨?_, fun a ha => ?_, heq⟩
  · rw [State.fetch_of_aligned (by rwa [hpc']), hpc']
    exact s.fetchWordAt_placeWord s.pc w
  · refine State.read_placeBytes_other _ s s.pc fun k hk => ?_
    rw [length_layoutWord] at hk
    rw [toNat_add_of_aligned hpc hk]
    omega

end Sys2Proof.Machine
end

section
/-! Branch offsets as signed numbers (spec 30_encoding.md R60, 42_branch.md R124, R125). -/

namespace Sys2Proof.Machine

/-- Four times a 16-bit signed number does not overflow 32 bits. -/
theorem branchOffset_toInt (p : Half) : (branchOffset p).toInt = 4 * p.toInt := by
  have hlo := BitVec.le_toInt p
  have hhi := BitVec.toInt_lt (x := p)
  rw [branchOffset, sext32, BitVec.shiftLeft_eq_mul_twoPow, BitVec.toInt_mul,
    BitVec.toInt_signExtend_of_le (by decide), show (BitVec.twoPow 32 2).toInt = 4 by decide,
    Int.bmod_eq_of_le (by omega) (by omega)]
  omega

theorem aligned_linkValue {pc : Word} (h : aligned pc = true) : aligned (linkValue pc) = true :=
  aligned_add h (by decide)

/-- Settles O41: the range is four times that of a 16-bit signed number, and the sum of two multiples of 4 is one. -/
theorem branchAndLinkAddressesStayAligned : Obligations.BranchAndLinkAddressesStayAligned := by
  intro imm pc
  have hlo := BitVec.le_toInt imm
  have hhi := BitVec.toInt_lt (x := imm)
  refine ⟨branchOffset_toInt imm, ?_, ?_, fun hpc => ?_⟩
  · rw [branchOffset_toInt]
    omega
  · rw [branchOffset_toInt]
    omega
  · have hal := (aligned_iff pc).2 hpc
    exact ⟨(aligned_iff _).1 (aligned_branchTarget hal imm), (aligned_iff _).1 (aligned_linkValue hal)⟩

end Sys2Proof.Machine
end

section
/-! What no step writes (spec 20_memory.md R41, R50). -/

namespace Sys2Proof.Machine

/-- Settles O50: a step is a commit and an advance, and neither touches the text or the parameters. -/
theorem stepsLeaveTextAndParameters : Obligations.StepsLeaveTextAndParameters := by
  intro s t h
  obtain ⟨-, i, o, -, rfl⟩ := step_next_cases h
  exact ⟨by rw [State.advance_mem, State.commit_mem], by rw [State.advance_cfg, State.commit_cfg]⟩

end Sys2Proof.Machine
end

section
/-! A word and its fields (spec 30_encoding.md R51, R52): the fields of a word make it up, and the masks of
spec/opcode_table.json read its selector fields. -/

namespace Sys2Proof

/-- The four fields of an I-type word make up the word (R51). -/
theorem iWord_fields (w : Word) : iWord (Field.opcode w) (Field.rt w) (Field.rs w) (Field.imm w) = w := by
  unfold iWord Field.opcode Field.rs Field.rt Field.imm
  rw [BitVec.extractLsb'_append_extractLsb'_eq_extractLsb' (rfl : 26 = 21 + 5),
    BitVec.extractLsb'_append_extractLsb'_eq_extractLsb' (rfl : 21 = 16 + 5),
    BitVec.extractLsb'_append_extractLsb'_eq_extractLsb' (rfl : 16 = 0 + 16)]
  exact BitVec.extractLsb'_eq_self

/-- An R-type word has rd, shamt and funct where an I-type word has its immediate (R51). -/
theorem Field.imm_eq_append (w : Word) : Field.imm w = Field.rd w ++ Field.shamt w ++ Field.funct w := by
  unfold Field.imm Field.rd Field.shamt Field.funct
  rw [BitVec.extractLsb'_append_extractLsb'_eq_extractLsb' (rfl : 11 = 6 + 5),
    BitVec.extractLsb'_append_extractLsb'_eq_extractLsb' (rfl : 6 = 0 + 6)]

/-- The fields of a SPECIAL word make up the word (R51). -/
theorem rWord_fields {w : Word} (hop : Field.opcode w = 0x00#6) :
    rWord (Field.funct w) (Field.rd w) (Field.rs w) (Field.rt w) (Field.shamt w) = w := by
  rw [rWord, ← hop, ← Field.imm_eq_append, iWord_fields]

theorem Field.opcode_and (v w : Word) : Field.opcode (v &&& w) = Field.opcode v &&& Field.opcode w :=
  BitVec.extractLsb'_and

theorem Field.rt_and (v w : Word) : Field.rt (v &&& w) = Field.rt v &&& Field.rt w :=
  BitVec.extractLsb'_and

theorem Field.funct_and (v w : Word) : Field.funct (v &&& w) = Field.funct v &&& Field.funct w :=
  BitVec.extractLsb'_and

/-! Words that agree with a pattern in its selector fields match it under the mask of those fields. -/

theorem and_opcodeMask {w p : Word} (hp : iWord (Field.opcode p) 0 0 0 = p) (hop : Field.opcode w = Field.opcode p) :
    w &&& 0xFC000000 = p := by
  rw [← iWord_fields w, iWord_and_opcode, hop, hp]

theorem and_regimmMask {w p : Word} (hp : iWord (Field.opcode p) (Field.rt p) 0 0 = p)
    (hop : Field.opcode w = Field.opcode p) (hrt : Field.rt w = Field.rt p) : w &&& 0xFC1F0000 = p := by
  rw [← iWord_fields w, iWord_and_regimm, hop, hrt, hp]

theorem and_specialMask {w p : Word} (hp : rWord (Field.funct p) 0 0 0 0 = p)
    (hop : Field.opcode w = 0x00#6) (hf : Field.funct w = Field.funct p) : w &&& 0xFC00003F = p := by
  rw [← rWord_fields hop, rWord_and_selectors, hf, hp]

end Sys2Proof
end

section
/-! The selectors of a row, as its mask and match columns and as `select` read them (spec 30_encoding.md R61 to R64). -/

namespace Sys2Proof

/-- The word carries the selectors of a row: its opcode, under SPECIAL its funct and under REGIMM its rt field are those
of the row's match column (R61). -/
structure Handler.SelectorsOf (h : Handler) (w : Word) : Prop where
  opcode : Field.opcode w = Field.opcode h.pattern
  funct : Field.opcode h.pattern = 0x00#6 → Field.funct w = Field.funct h.pattern
  rt : Field.opcode h.pattern = 0x01#6 → Field.rt w = Field.rt h.pattern

theorem Handler.opcode_mask (h : Handler) : Field.opcode h.mask = BitVec.allOnes 6 := by
  cases h <;> rfl

theorem Handler.funct_mask {h : Handler} (hop : Field.opcode h.pattern = 0x00#6) :
    Field.funct h.mask = BitVec.allOnes 6 := by
  revert hop
  cases h <;> decide

theorem Handler.rt_mask {h : Handler} (hop : Field.opcode h.pattern = 0x01#6) :
    Field.rt h.mask = BitVec.allOnes 5 := by
  revert hop
  cases h <;> decide

/-- A word masked by a row's mask column is the row's match column exactly when it carries the row's selectors. -/
theorem Handler.and_mask_eq_pattern_iff (h : Handler) (w : Word) : w &&& h.mask = h.pattern ↔ h.SelectorsOf w := by
  constructor
  · intro hw
    exact
      { opcode := by rw [← hw, Field.opcode_and, h.opcode_mask, BitVec.and_allOnes]
        funct := fun hop => by rw [← hw, Field.funct_and, Handler.funct_mask hop, BitVec.and_allOnes]
        rt := fun hop => by rw [← hw, Field.rt_and, Handler.rt_mask hop, BitVec.and_allOnes] }
  · intro hw
    cases h
    case and | or | nor | xor | sll | sra | srl | sllv | srav | srlv =>
      exact and_specialMask (by decide) hw.opcode (hw.funct rfl)
    case bltz | bgez | bltzal | bgezal => exact and_regimmMask (by decide) hw.opcode (hw.rt rfl)
    case andi | ori | xori | lui | addi | addiu | slti | sltiu | beq | bne | blez | bgtz =>
      exact and_opcodeMask (by decide) hw.opcode

/-- Each row's match column selects the row. -/
theorem select_pattern (h : Handler) : select h.pattern = some h := by
  cases h <;> rfl

/-- The selection looks at a word's selectors only. -/
theorem select_of_selectorsOf {h : Handler} {w : Word} (hw : h.SelectorsOf w) : select w = some h := by
  obtain ⟨hop, hf, hrt⟩ := hw
  rw [← select_pattern h]
  unfold select
  rw [hop]
  split
  · rw [hf ‹_›]
  · rw [hrt ‹_›]
  all_goals rfl

theorem selectorsOf_of_selectSpecial {h : Handler} {w : Word} (hop : Field.opcode w = 0x00#6)
    (hs : selectSpecial (Field.funct w) = some h) : h.SelectorsOf w := by
  unfold selectSpecial at hs
  split at hs <;> cases hs
  all_goals exact ⟨hop, fun _ => ‹_›, nofun⟩

theorem selectorsOf_of_selectRegimm {h : Handler} {w : Word} (hop : Field.opcode w = 0x01#6)
    (hs : selectRegimm (Field.rt w) = some h) : h.SelectorsOf w := by
  unfold selectRegimm at hs
  split at hs <;> cases hs
  all_goals exact ⟨hop, nofun, fun _ => ‹_›⟩

/-- Only a word with the selectors of a row selects it. -/
theorem selectorsOf_of_select {h : Handler} {w : Word} (hs : select w = some h) : h.SelectorsOf w := by
  unfold select at hs
  split at hs
  · exact selectorsOf_of_selectSpecial ‹_› hs
  · exact selectorsOf_of_selectRegimm ‹_› hs
  all_goals cases hs
  all_goals exact ⟨‹_›, nofun, nofun⟩

/-- Settles O3: both the mask and match columns and the selection read a row's selectors. -/
theorem selectAgreesWithOpcodeTable : Obligations.SelectAgreesWithOpcodeTable := fun w h =>
  ⟨fun hs => (h.and_mask_eq_pattern_iff w).2 (selectorsOf_of_select hs),
    fun hw => select_of_selectorsOf ((h.and_mask_eq_pattern_iff w).1 hw)⟩

end Sys2Proof
end

section
/-! The two round trips between words and instructions (spec 30_encoding.md R51, R53, R62), and the words that are no
instruction (R63). -/

namespace Sys2Proof

theorem decode_of_select {w : Word} {h : Handler} (hs : select w = some h) : decode w = .ok (h.build w) := by
  simp [decode, hs]

theorem decode_of_select_none {w : Word} (hs : select w = none) : decode w = .error (.notRouted w) := by
  simp [decode, hs]

/-- A word that decodes selects a handler, and the instruction is the one built for it. -/
theorem decode_ok {w : Word} {i : Instr} (hi : decode w = .ok i) : ∃ h, select w = some h ∧ h.build w = i := by
  unfold decode at hi
  split at hi
  · rename_i h hs
    exact ⟨h, hs, Except.ok.inj hi⟩
  · cases hi

/-- Selector values that are a word's own, with its other fields, make up the word: an I-type row. -/
theorem iWord_of_opcode {w : Word} {c : BitVec 6} (hop : Field.opcode w = c) :
    iWord c (Field.rt w) (Field.rs w) (Field.imm w) = w := by
  rw [← hop, iWord_fields]

theorem iWord_of_regimm {w : Word} {c : BitVec 6} {r : Reg} (hop : Field.opcode w = c) (hrt : Field.rt w = r) :
    iWord c r (Field.rs w) (Field.imm w) = w := by
  rw [← hrt, iWord_of_opcode hop]

theorem rWord_of_special {w : Word} {f : BitVec 6} (hop : Field.opcode w = 0x00#6) (hf : Field.funct w = f) :
    rWord f (Field.rd w) (Field.rs w) (Field.rt w) (Field.shamt w) = w := by
  rw [← hf, rWord_fields hop]

/-- An instruction built from a word with the selectors of its row has that word: the encoder puts back the selectors,
and the operands hold every other bit. -/
theorem encode_build {h : Handler} {w : Word} (hw : h.SelectorsOf w) : encode (h.build w) = w := by
  cases h
  case and | or | nor | xor | sll | sra | srl | sllv | srav | srlv => exact rWord_of_special hw.opcode (hw.funct rfl)
  case bltz | bgez | bltzal | bgezal => exact iWord_of_regimm hw.opcode (hw.rt rfl)
  case andi | ori | xori | lui | addi | addiu | slti | sltiu | beq | bne | blez | bgtz => exact iWord_of_opcode hw.opcode

/-- Settles O2: the word has the selectors of the row it decodes by. -/
theorem encodeOfDecodeIsIdentity : Obligations.EncodeOfDecodeIsIdentity := by
  intro w i hi
  obtain ⟨h, hs, rfl⟩ := decode_ok hi
  exact encode_build (selectorsOf_of_select hs)

/-- The encoder sets the selector bits the row of spec/opcode_table.json fixes. -/
theorem encode_and_mask (i : Instr) : encode i &&& i.handler.mask = i.handler.pattern := by
  cases i with
  | and => exact Laws.TableRow.and _ _ _ _
  | or => exact Laws.TableRow.or _ _ _ _
  | nor => exact Laws.TableRow.nor _ _ _ _
  | xor => exact Laws.TableRow.xor _ _ _ _
  | sll => exact Laws.TableRow.sll _ _ _ _
  | sra => exact Laws.TableRow.sra _ _ _ _
  | srl => exact Laws.TableRow.srl _ _ _ _
  | sllv => exact Laws.TableRow.sllv _ _ _ _
  | srav => exact Laws.TableRow.srav _ _ _ _
  | srlv => exact Laws.TableRow.srlv _ _ _ _
  | andi => exact Laws.TableRow.andi _ _ _
  | ori => exact Laws.TableRow.ori _ _ _
  | xori => exact Laws.TableRow.xori _ _ _
  | lui => exact Laws.TableRow.lui _ _ _
  | addi => exact Laws.TableRow.addi _ _ _
  | addiu => exact Laws.TableRow.addiu _ _ _
  | slti => exact Laws.TableRow.slti _ _ _
  | sltiu => exact Laws.TableRow.sltiu _ _ _
  | beq => exact Laws.TableRow.beq _ _ _
  | bne => exact Laws.TableRow.bne _ _ _
  | blez => exact Laws.TableRow.blez _ _ _
  | bgtz => exact Laws.TableRow.bgtz _ _ _
  | bltz => exact Laws.TableRow.bltz _ _
  | bgez => exact Laws.TableRow.bgez _ _
  | bltzal => exact Laws.TableRow.bltzal _ _
  | bgezal => exact Laws.TableRow.bgezal _ _

theorem select_encode (i : Instr) : select (encode i) = some i.handler :=
  (selectAgreesWithOpcodeTable _ _).2 (encode_and_mask i)

/-- The fields of an instruction's word are its operands. -/
theorem build_encode (i : Instr) : i.handler.build (encode i) = i := by
  cases i <;> simp [Instr.handler, Handler.build, encode]

theorem decode_encode (i : Instr) : decode (encode i) = .ok i := by
  rw [decode_of_select (select_encode i), build_encode]

theorem Handler.mem_all (h : Handler) : h ∈ Handler.all := by
  cases h <;> decide

theorem wordWellFormed_of_and_mask {w : Word} {h : Handler} (hw : w &&& h.mask = h.pattern) :
    WordWellFormed w = true :=
  List.any_eq_true.2 ⟨h, h.mem_all, beq_iff_eq.2 hw⟩

/-- The byte decoder reads a laid-out word in the same byte order and hands back what follows its four bytes (R53). -/
theorem decodeBytes_layoutWord {w : Word} {i : Instr} (hi : decode w = .ok i) (e : Endian) (rest : List Byte) :
    decodeBytes e (layoutWord e w ++ rest) = .ok (i, rest) := by
  cases e with
  | big => simp [layoutWord, decodeBytes, Machine.assemble_layout_big, hi]
  | little => simp [layoutWord, decodeBytes, Machine.assemble_layout_little, hi]

/-- Settles O1: an encoded word has the mask and match of its row, so it selects its own handler, and its fields are the
operands. -/
theorem decodeOfEncodeIsIdentity : Obligations.DecodeOfEncodeIsIdentity := fun i =>
  ⟨wordWellFormed_of_and_mask (encode_and_mask i), decode_encode i, decodeBytes_layoutWord (decode_encode i)⟩

/-- Settles O9: by the agreement with the opcode table such a word selects no handler, so it does not decode, and the
step refuses it before any register is read. -/
theorem unroutedWordIsRefused : Obligations.UnroutedWordIsRefused := by
  intro s w hf hw
  have hs : select w = none := Option.eq_none_iff_forall_ne_some.2 fun h hs =>
    hw h ((selectAgreesWithOpcodeTable w h).1 hs)
  simp [Machine.step, hf, decode_of_select_none hs, Machine.refuseUnrouted]

end Sys2Proof
end

section
/-! Field extraction and immediate extension as bit operations on a word (spec 30_encoding.md R52, R58, R59). -/

namespace Sys2Proof

/-- Extracting a field is a right shift to the low-order position and a mask of the field's width. -/
theorem setWidth_extractLsb'_eq_mask (w : Word) (start len : Nat) :
    (w.extractLsb' start len).setWidth 32 = (w >>> start) &&& (BitVec.allOnes len).setWidth 32 := by
  apply BitVec.eq_of_getLsbD_eq
  intro i hi
  simp [hi, Bool.and_comm]

/-- Settles O4: each mask is that of its field's width. -/
theorem fieldsAreMaskedShifts : Obligations.FieldsAreMaskedShifts := fun w =>
  ⟨setWidth_extractLsb'_eq_mask w 26 6, setWidth_extractLsb'_eq_mask w 21 5, setWidth_extractLsb'_eq_mask w 16 5,
    setWidth_extractLsb'_eq_mask w 11 5, setWidth_extractLsb'_eq_mask w 6 5, setWidth_extractLsb'_eq_mask w 0 6,
    setWidth_extractLsb'_eq_mask w 0 16⟩

end Sys2Proof

namespace Sys2Proof.Machine

theorem sext32_eq_append (p : Half) : sext32 p = if p.getLsbD 15 then 0xFFFF#16 ++ p else 0x0000#16 ++ p := by
  have hmsb : p.msb = p.getLsbD 15 := BitVec.msb_eq_getLsbD_last p
  rw [sext32, BitVec.signExtend_eq_append_of_le (by decide), hmsb]
  cases p.getLsbD 15 <;> rfl

theorem zext32_eq_append (p : Half) : zext32 p = 0x0000#16 ++ p :=
  BitVec.setWidth_eq_append (by decide)

/-- Settles O5: both extensions put sixteen copies of one bit above the pattern, and the I-type decoder resolves by zero
extension. -/
theorem immediatesExtendBySignOrZero : Obligations.ImmediatesExtendBySignOrZero := fun p =>
  ⟨sext32_eq_append p, zext32_eq_append p, fun _ _ _ => congrArg (Operand.immediate p) (zext32_eq_append p)⟩

end Sys2Proof.Machine
end

section
/-! The fields the block ignores (spec 30_encoding.md R64, R65). -/

namespace Sys2Proof.Machine

/-- Settles O6: an arm drops an ignored shamt, a shift by a constant and `lui` use no value of port S, and a compare
with zero uses none of port T and writes no register. -/
theorem ignoredFieldsHaveNoEffect : Obligations.IgnoredFieldsHaveNoEffect := by
  intro i s
  cases i
  case and | or | nor | xor | sllv | srav | srlv => rfl
  case sll | sra | srl | lui => rfl
  case blez | bgtz => rfl
  case andi | ori | xori | addi | addiu | slti | sltiu | beq | bne | bltz | bgez | bltzal | bgezal => rfl

end Sys2Proof.Machine
end

section
/-! The activations of the pseudo-instructions' expansions (spec 30_encoding.md R67). -/

namespace Sys2Proof.Machine

/-! The answer of the instructions the expansions use, where the registers they use hold values. -/

theorem exec_addiu {s : State} {rs : Reg} {a : Word} (hrs : s.readGpr rs = some a) (rt : Reg) (imm : Half) :
    exec (.addiu rt rs imm) s = .next (s.commit (.gpr rt (a + sext32 imm))) := by
  simp [exec, execAddiu, State.activate, State.inputs, firstSource, iTypeSlots, hrs]

theorem exec_ori {s : State} {rs : Reg} {a : Word} (hrs : s.readGpr rs = some a) (rt : Reg) (imm : Half) :
    exec (.ori rt rs imm) s = .next (s.commit (.gpr rt (a ||| zext32 imm))) := by
  simp [exec, execOri, State.activate, State.inputs, bothSources, iTypeSlots, hrs]

theorem exec_lui (s : State) (rt rs : Reg) (imm : Half) :
    exec (.lui rt rs imm) s = .next (s.commit (.gpr rt (upperImm imm))) := rfl

theorem exec_or {s : State} {rs rt : Reg} {a b : Word} (hrs : s.readGpr rs = some a) (hrt : s.readGpr rt = some b)
    (rd : Reg) (sa : Shamt) : exec (.or rd rs rt sa) s = .next (s.commit (.gpr rd (a ||| b))) := by
  simp [exec, execOr, State.activate, State.inputs, bothSources, rTypeSlots, hrs, hrt]

theorem exec_nor {s : State} {rs rt : Reg} {a b : Word} (hrs : s.readGpr rs = some a) (hrt : s.readGpr rt = some b)
    (rd : Reg) (sa : Shamt) : exec (.nor rd rs rt sa) s = .next (s.commit (.gpr rd (~~~(a ||| b)))) := by
  simp [exec, execNor, State.activate, State.inputs, bothSources, rTypeSlots, hrs, hrt]

/-- `t` is `s` with the value `v` in register `d`, as far as the registers, the CP0 fields, the parameters and the text
go. -/
def Loads (d : Reg) (v : Word) (s t : State) : Prop :=
  t.readGpr d = some v ∧ (∀ r, r ≠ d → t.readGpr r = s.readGpr r) ∧ SameOutside s t

theorem SameOutside.trans {s t u : State} (hst : SameOutside s t) (htu : SameOutside t u) : SameOutside s u where
  cfg := htu.cfg.trans hst.cfg
  mem a := (htu.mem a).trans (hst.mem a)
  exl := htu.exl.trans hst.exl
  excCode := htu.excCode.trans hst.excCode
  epc := htu.epc.trans hst.epc

/-- The later of two loads of one register counts. -/
theorem Loads.trans {d : Reg} {v w : Word} {s t u : State} (hst : Loads d v s t) (htu : Loads d w t u) :
    Loads d w s u := by
  obtain ⟨-, hkept, hout⟩ := hst
  obtain ⟨hd, hkept', hout'⟩ := htu
  exact ⟨hd, fun r hr => (hkept' r hr).trans (hkept r hr), hout.trans hout'⟩

/-- An expansion goes on after its first instruction's activation and the harness's advance. -/
theorem Pseudo.run_cons {i : Instr} {s t : State} (h : exec i s = .next t) (is : List Instr) :
    Pseudo.run (i :: is) s = Pseudo.run is (t.advance s.pc) := by
  simp [Pseudo.run, h, advanceResult]

/-- A register write and the advance after it load the register, unless it is a hard-wired register 0. -/
theorem State.advance_commit_gpr_loads {s : State} {d : Reg} (hd : s.hardwired d = false) (v a : Word) :
    Loads d v s ((s.commit (.gpr d v)).advance a) := by
  refine ⟨?_, fun r hr => ?_, ?_⟩
  · simp [State.readGpr_commit, Outputs.gpr, hd]
  · simp [State.readGpr_commit, Outputs.gpr, hr.symm]
  · constructor <;> simp [Outputs.gpr, Outputs.idle]

/-- An expansion of one instruction that drives a register write loads the register. -/
theorem Pseudo.run_singleton_loads {i : Instr} {s : State} {d : Reg} {v : Word} (hd : s.hardwired d = false)
    (hx : exec i s = .next (s.commit (.gpr d v))) : ∃ t, Pseudo.run [i] s = .next t ∧ Loads d v s t :=
  ⟨_, Pseudo.run_cons hx [], State.advance_commit_gpr_loads hd v s.pc⟩

/-- The two halves of a value, as `lui` and `ori` put them together. -/
theorem upperImm_or_zext32 (v : Word) : upperImm (v.extractLsb' 16 16) ||| zext32 (v.extractLsb' 0 16) = v := by
  rw [zext32_eq_append, upperImm, BitVec.or_append, BitVec.or_zero, BitVec.zero_or]
  exact BitVec.extractLsb'_append_extractLsb'

/-- An `ori` of a register that was just loaded puts its immediate into the loaded value. -/
theorem Loads.run_ori {d : Reg} {v : Word} {s t : State} (h : Loads d v s t) (hd : s.hardwired d = false) (imm : Half) :
    ∃ u, Pseudo.run [.ori d d imm] t = .next u ∧ Loads d (v ||| zext32 imm) s u := by
  have ⟨hread, _, hout⟩ := h
  have hd' : t.hardwired d = false := (State.hardwired_congr hout.cfg d).trans hd
  obtain ⟨u, hu, hload⟩ := Pseudo.run_singleton_loads hd' (exec_ori hread d imm)
  exact ⟨u, hu, h.trans hload⟩

/-- `li` loads its value in each of its three expansions: by sign extension, by zero extension, and by halves. -/
theorem Pseudo.li_loads {s : State} {d : Reg} (h0 : s.readGpr 0 = some 0#32) (hd : s.hardwired d = false) (v : Word) :
    ∃ t, Pseudo.run (Pseudo.li d v) s = .next t ∧ Loads d v s t := by
  unfold Pseudo.li
  split
  · rename_i hv
    have hx := exec_addiu h0 d (v.extractLsb' 0 16)
    rw [hv, BitVec.zero_add] at hx
    exact Pseudo.run_singleton_loads hd hx
  · split
    · rename_i hv
      have hx := exec_ori h0 d (v.extractLsb' 0 16)
      rw [hv, BitVec.zero_or] at hx
      exact Pseudo.run_singleton_loads hd hx
    · have hupper := State.advance_commit_gpr_loads hd (upperImm (v.extractLsb' 16 16)) s.pc
      have hboth := hupper.run_ori hd (v.extractLsb' 0 16)
      rwa [upperImm_or_zext32] at hboth

/-- Settles O57: `li` by its three expansions, `move` and `not` by `or` and `nor` with the 0 that a hard-wired register
0 reads as. -/
theorem loadImmediateLoadsTheValue : Obligations.LoadImmediateLoadsTheValue := by
  intro s d rs v a hc hd hrs
  have h0 : s.readGpr 0 = some 0#32 := State.readGpr_hardwired ((State.hardwired_zero s).trans hc)
  have hw : s.hardwired d = false := State.hardwired_eq_false (.inl hd)
  refine ⟨Pseudo.li_loads h0 hw v, Pseudo.run_singleton_loads hw ?_, Pseudo.run_singleton_loads hw ?_⟩
  · simpa using exec_or hrs h0 d 0
  · simpa using exec_nor hrs h0 d 0

end Sys2Proof.Machine
end

section
/-! A word with the selector bits of a row decodes to the row's instruction (spec 30_encoding.md R51, R61). -/

namespace Sys2Proof

theorem decode_of_and_mask {h : Handler} {w : Word} (hw : w &&& h.mask = h.pattern) : decode w = .ok (h.build w) :=
  decode_of_select ((selectAgreesWithOpcodeTable w h).2 hw)

end Sys2Proof
end

section
/-! The answer of an activation whose handler writes one register (spec 10_state.md R24, R27; 40_logical_shift.md R81,
R90, R94): where the ports it uses hold values, the commit of that write. -/

namespace Sys2Proof.Machine

section
variable {s : State} {rs rt : Reg} {a b : Word}

theorem State.activate_bothSources_rType (hrs : s.readGpr rs = some a) (hrt : s.readGpr rt = some b) (rd : Reg)
    (f : Inputs → Word → Word → Word) :
    s.activate rs rt (fun inp => bothSources (rTypeSlots rd rs rt inp) (f inp)) =
      .next (s.commit (.gpr rd (f (s.inputs rs rt) a b))) := by
  simp [State.activate, State.inputs, bothSources, rTypeSlots, hrs, hrt]

theorem State.activate_bothSources_iType (hrs : s.readGpr rs = some a) (rt : Reg) (imm : Half)
    (f : Word → Word → Word) :
    s.activate rs rt (fun inp => bothSources (iTypeSlots rt rs imm inp) f) =
      .next (s.commit (.gpr rt (f a (0x0000#16 ++ imm)))) := by
  simp [State.activate, State.inputs, bothSources, iTypeSlots, hrs, zext32_eq_append]

theorem State.activate_secondSource_rType (hrt : s.readGpr rt = some b) (rd rs : Reg) (f : Word → Word) :
    s.activate rs rt (fun inp => secondSource (rTypeSlots rd rs rt inp) f) = .next (s.commit (.gpr rd (f b))) := by
  simp [State.activate, State.inputs, secondSource, rTypeSlots, hrt]

/-- A variable shift writes the value that the operand roles in force give: GPR[rs] by GPR[rt] under DOC, GPR[rt] by
GPR[rs] under MIPS32. -/
theorem State.activate_variableShift (hrs : s.readGpr rs = some a) (hrt : s.readGpr rt = some b) (rd : Reg)
    (f : Word → Nat → Word) {v : Word} (hdoc : s.cfg.varShiftRoles = .doc → v = f a (b.toNat % 32))
    (hmips : s.cfg.varShiftRoles = .mips32 → v = f b (a.toNat % 32)) :
    s.activate rs rt (fun inp => variableShift (rTypeSlots rd rs rt inp) inp.cfg.varShiftRoles f) =
      .next (s.commit (.gpr rd v)) := by
  refine (State.activate_bothSources_rType hrs hrt rd _).trans ?_
  cases h : s.cfg.varShiftRoles with
  | doc => simp [State.inputs, h, shiftRoles, hdoc h]
  | mips32 => simp [State.inputs, h, shiftRoles, hmips h]

end

/-- An instruction that commits a register write changes that register and nothing else. -/
theorem exec_commitsExactly_gpr {i : Instr} {s : State} {d : Reg} {v : Word}
    (hx : exec i s = .next (s.commit (.gpr d v))) :
    ∃ t, exec i s = .next t ∧ CommitsExactly s t (some (d, v)) none :=
  ⟨_, hx, s.commit_commitsExactly _ _⟩

end Sys2Proof.Machine
end

section
/-! The logical instructions (spec 40_logical_shift.md R82 to R89). -/

namespace Sys2Proof.Machine

/-- Settles O13: both ports are used, and the write is the conjunction. -/
theorem andWritesConjunction : Obligations.AndWritesConjunction :=
  ⟨fun _ => decode_of_and_mask (h := .and), fun _ rd _ _ _ _ _ hrs hrt =>
    exec_commitsExactly_gpr (State.activate_bothSources_rType hrs hrt rd fun _ => (· &&& ·))⟩

/-- Settles O14, by the answer of `or`. -/
theorem orWritesDisjunction : Obligations.OrWritesDisjunction :=
  ⟨fun _ => decode_of_and_mask (h := .or), fun _ rd _ _ sa _ _ hrs hrt =>
    exec_commitsExactly_gpr (exec_or hrs hrt rd sa)⟩

/-- Settles O15, by the answer of `nor`. -/
theorem norWritesNegatedDisjunction : Obligations.NorWritesNegatedDisjunction :=
  ⟨fun _ => decode_of_and_mask (h := .nor), fun _ rd _ _ sa _ _ hrs hrt =>
    exec_commitsExactly_gpr (exec_nor hrs hrt rd sa)⟩

/-- Settles O16: both ports are used, and the write is the exclusive or. -/
theorem xorWritesExclusiveOr : Obligations.XorWritesExclusiveOr :=
  ⟨fun _ => decode_of_and_mask (h := .xor), fun _ rd _ _ _ _ _ hrs hrt =>
    exec_commitsExactly_gpr (State.activate_bothSources_rType hrs hrt rd fun _ => (· ^^^ ·))⟩

/-- Settles O23: source2 is the zero-extended immediate, so only port S is used. -/
theorem andiMasksWithZeroExtended : Obligations.AndiMasksWithZeroExtended :=
  ⟨fun _ => decode_of_and_mask (h := .andi), fun _ rt _ imm _ hrs =>
    exec_commitsExactly_gpr (State.activate_bothSources_iType hrs rt imm (· &&& ·))⟩

/-- Settles O24: source2 is the zero-extended immediate, so only port S is used. -/
theorem oriSetsWithZeroExtended : Obligations.OriSetsWithZeroExtended :=
  ⟨fun _ => decode_of_and_mask (h := .ori), fun _ rt _ imm _ hrs =>
    exec_commitsExactly_gpr (State.activate_bothSources_iType hrs rt imm (· ||| ·))⟩

/-- Settles O25: source2 is the zero-extended immediate, so only port S is used. -/
theorem xoriInvertsWithZeroExtended : Obligations.XoriInvertsWithZeroExtended :=
  ⟨fun _ => decode_of_and_mask (h := .xori), fun _ rt _ imm _ hrs =>
    exec_commitsExactly_gpr (State.activate_bothSources_iType hrs rt imm (· ^^^ ·))⟩

/-- Settles O29: `lui` uses no port, so it answers in every state. -/
theorem luiLoadsUpperHalf : Obligations.LuiLoadsUpperHalf :=
  ⟨fun _ => decode_of_and_mask (h := .lui), fun s rt rs imm => exec_commitsExactly_gpr (exec_lui s rt rs imm)⟩

end Sys2Proof.Machine
end

section
/-! The shifts (spec 40_logical_shift.md R90 to R97). -/

namespace Sys2Proof.Machine

/-- Settles O17: the shift uses port T only, and the count is the shamt field. -/
theorem sllShiftsLeftByConstant : Obligations.SllShiftsLeftByConstant :=
  ⟨fun _ => decode_of_and_mask (h := .sll), fun _ rd rs _ sa _ hrt =>
    exec_commitsExactly_gpr (State.activate_secondSource_rType hrt rd rs (· <<< sa.toNat))⟩

/-- Settles O18: the shift uses port T only, and the count is the shamt field. -/
theorem sraShiftsRightKeepingSign : Obligations.SraShiftsRightKeepingSign :=
  ⟨fun _ => decode_of_and_mask (h := .sra), fun _ rd rs _ sa _ hrt =>
    exec_commitsExactly_gpr (State.activate_secondSource_rType hrt rd rs (·.sshiftRight sa.toNat))⟩

/-- Settles O19: the shift uses port T only, and the count is the shamt field. -/
theorem srlShiftsRightZeroFilling : Obligations.SrlShiftsRightZeroFilling :=
  ⟨fun _ => decode_of_and_mask (h := .srl), fun _ rd rs _ sa _ hrt =>
    exec_commitsExactly_gpr (State.activate_secondSource_rType hrt rd rs (· >>> sa.toNat))⟩

/-- Settles O20, by the two settings of the operand roles. -/
theorem sllvShiftsLeftByRegister : Obligations.SllvShiftsLeftByRegister :=
  ⟨fun _ => decode_of_and_mask (h := .sllv), fun _ rd _ _ _ _ _ hrs hrt =>
    exec_commitsExactly_gpr
      (State.activate_variableShift hrs hrt rd (· <<< ·) (fun hdoc => by rw [hdoc]) (fun hmips => by rw [hmips]))⟩

/-- Settles O21, by the two settings of the operand roles. -/
theorem sravShiftsRightKeepingSignByRegister : Obligations.SravShiftsRightKeepingSignByRegister :=
  ⟨fun _ => decode_of_and_mask (h := .srav), fun _ rd _ _ _ _ _ hrs hrt =>
    exec_commitsExactly_gpr
      (State.activate_variableShift hrs hrt rd BitVec.sshiftRight (fun hdoc => by rw [hdoc])
        (fun hmips => by rw [hmips]))⟩

/-- Settles O22, by the two settings of the operand roles. -/
theorem srlvShiftsRightZeroFillingByRegister : Obligations.SrlvShiftsRightZeroFillingByRegister :=
  ⟨fun _ => decode_of_and_mask (h := .srlv), fun _ rd _ _ _ _ _ hrs hrt =>
    exec_commitsExactly_gpr
      (State.activate_variableShift hrs hrt rd (· >>> ·) (fun hdoc => by rw [hdoc]) (fun hmips => by rw [hmips]))⟩

end Sys2Proof.Machine
end

section
/-! The signed-overflow detector is exact (spec 41_imm_arith.md R102 to R104). -/

namespace Sys2Proof.Machine

theorem sext32_toInt (p : Half) : (sext32 p).toInt = p.toInt :=
  BitVec.toInt_signExtend_of_le (by decide)

/-- A wrapped sum is the sum itself, or 2^32 away from it where the sum is out of range. -/
theorem toInt_add_cases (a b : Word) :
    (a.toInt + b.toInt < -2 ^ 31 ∧ (a + b).toInt = a.toInt + b.toInt + 2 ^ 32) ∨
    (-2 ^ 31 ≤ a.toInt + b.toInt ∧ a.toInt + b.toInt < 2 ^ 31 ∧ (a + b).toInt = a.toInt + b.toInt) ∨
    (2 ^ 31 ≤ a.toInt + b.toInt ∧ (a + b).toInt = a.toInt + b.toInt - 2 ^ 32) := by
  have ha := BitVec.le_toInt a
  have ha' := BitVec.toInt_lt (x := a)
  have hb := BitVec.le_toInt b
  have hb' := BitVec.toInt_lt (x := b)
  rw [BitVec.toInt_add, Int.bmod_def]
  omega

/-- R104's derivation: the document's strict signs miss no overflow, for they could miss only a sum of two -2^31, which
wraps to 0. -/
theorem signsOverflow_iff_saddOverflow {a b : Word} (hb : -2 ^ 31 < b.toInt) :
    SignsOverflow a b (a + b) ↔ a.saddOverflow b = true := by
  have ha := BitVec.le_toInt a
  have ha' := BitVec.toInt_lt (x := a)
  have hb' := BitVec.toInt_lt (x := b)
  simp only [SignsOverflow, BitVec.saddOverflow, Bool.or_eq_true, decide_eq_true_eq]
  obtain ⟨hlow, hsum⟩ | ⟨hlo, hhi, hsum⟩ | ⟨hhigh, hsum⟩ := toInt_add_cases a b
  all_goals rw [hsum]; omega

/-- With a sign-extended immediate the detector is the library's signed-overflow predicate. -/
theorem ovfAdd_sext32_iff (a : Word) (imm : Half) :
    ovfAdd a (sext32 imm) (a + sext32 imm) = true ↔ a.saddOverflow (sext32 imm) = true := by
  have himm := BitVec.le_toInt imm
  exact (ovfAdd_iff _ _ _).trans (signsOverflow_iff_saddOverflow (by rw [sext32_toInt]; omega))

/-- Settles O39: the detector is `BitVec.saddOverflow`, which is defined by the range of the sum and has the form with
the sign bits in the library. -/
theorem overflowDetectorIsExact : Obligations.OverflowDetectorIsExact := by
  intro a imm
  rw [ovfAdd_sext32_iff]
  constructor
  · rw [BitVec.saddOverflow_eq]
    simp
  · simp only [BitVec.saddOverflow, Bool.or_eq_true, decide_eq_true_eq]
    omega

end Sys2Proof.Machine
end

section
/-! The immediate arithmetic and compare instructions (spec 41_imm_arith.md R105 to R108). -/

namespace Sys2Proof.Machine

theorem State.activate_firstSource_iType {s : State} {rs : Reg} {a : Word} (hrs : s.readGpr rs = some a) (rt : Reg)
    (imm : Half) (f : Word → Word) :
    s.activate rs rt (fun inp => firstSource (iTypeSlots rt rs imm inp) f) = .next (s.commit (.gpr rt (f a))) := by
  simp [State.activate, State.inputs, firstSource, iTypeSlots, hrs]

theorem boolWord_ltSigned (a b : Word) : boolWord (ltSigned a b) = if a.toInt < b.toInt then 1 else 0 := by
  simp [boolWord, ltSigned]

theorem boolWord_ltUnsigned (a b : Word) : boolWord (ltUnsigned a b) = if a.toNat < b.toNat then 1 else 0 := by
  simp only [boolWord, ltUnsigned, decide_eq_true_eq]

/-- Settles O26, by the answer of `addiu`. -/
theorem addiuAddsAndWraps : Obligations.AddiuAddsAndWraps :=
  ⟨fun _ => decode_of_and_mask (h := .addiu), fun _ rt _ imm _ hrs => exec_commitsExactly_gpr (exec_addiu hrs rt imm)⟩

/-- Settles O27: only port S is used, and the write is the signed comparison's 1 or 0. -/
theorem sltiComparesSigned : Obligations.SltiComparesSigned :=
  ⟨fun _ => decode_of_and_mask (h := .slti), fun _ rt _ imm a hrs => by
    rw [← boolWord_ltSigned a (sext32 imm)]
    exact exec_commitsExactly_gpr
      (State.activate_firstSource_iType hrs rt imm fun x => boolWord (ltSigned x (sext32 imm)))⟩

/-- Settles O28: only port S is used, and the write is the unsigned comparison's 1 or 0. -/
theorem sltiuComparesSignExtendedUnsigned : Obligations.SltiuComparesSignExtendedUnsigned :=
  ⟨fun _ => decode_of_and_mask (h := .sltiu), fun _ rt _ imm a hrs => by
    rw [← boolWord_ltUnsigned a (sext32 imm)]
    exact exec_commitsExactly_gpr
      (State.activate_firstSource_iType hrs rt imm fun x => boolWord (ltUnsigned x (sext32 imm)))⟩

/-- `addi` commits what the arbiter's decision drives (60_exceptions.md R143). -/
theorem exec_addi {s : State} {rs : Reg} {a : Word} (hrs : s.readGpr rs = some a) (rt : Reg) (imm : Half) :
    exec (.addi rt rs imm) s =
      .next (s.commit (decidedSum (arbitrate (ovfAdd a (sext32 imm) (a + sext32 imm)) s.exl) s.cfg.trapAddr rt
        (a + sext32 imm))) := by
  simp [exec, execAddi, State.activate, State.inputs, iTypeSlots, hrs]

theorem Outputs.suppressed_eq :
    Outputs.suppressed = { gprWrite := none, pcWrite := none, trap := false, decision := .suppressed } := rfl

/-- The commit of a suppressed overflow writes nothing (60_exceptions.md R145). -/
theorem State.commit_suppressed_writesNothing (s : State) : WritesNothing s (s.commit .suppressed) where
  kept r := by simp [State.readGpr_commit, Outputs.suppressed_eq]
  pc := by simp [Outputs.suppressed_eq]
  outside := by constructor <;> simp [Outputs.suppressed_eq]
  sequencer := ⟨by simp, by simp⟩
  signals := by simp [Outputs.suppressed_eq]

/-- Settles O30, by the arbiter's three decisions. -/
theorem addiAddsTrapsOrIsSuppressed : Obligations.AddiAddsTrapsOrIsSuppressed := by
  refine ⟨fun _ => decode_of_and_mask (h := .addi), fun s rt rs imm a hrs => ?_⟩
  rw [exec_addi hrs, ← ovfAdd_iff]
  refine ⟨fun hov => ⟨_, rfl, ?_⟩, fun hov hexl => ⟨_, rfl, ?_⟩, fun hov hexl => ⟨_, rfl, ?_⟩⟩
  · rw [Bool.eq_false_of_not_eq_true hov]
    exact s.commit_commitsExactly _ _
  · rw [hov, hexl]
    exact s.commit_trapTo_trapEntered
  · rw [hov, hexl]
    exact s.commit_suppressed_writesNothing

end Sys2Proof.Machine
end

section
/-! The branch conditions as propositions, by signed comparison and by bit 31 (spec 42_branch.md R122). -/

namespace Sys2Proof.Machine

theorem condGez_iff (a : Word) : condGez a = true ↔ 0 ≤ a.toInt := decide_eq_true_iff

theorem condLtz_iff (a : Word) : condLtz a = true ↔ a.toInt < 0 := decide_eq_true_iff

theorem condGtz_iff (a : Word) : condGtz a = true ↔ 0 < a.toInt := decide_eq_true_iff

theorem condLez_iff (a : Word) : condLez a = true ↔ a.toInt ≤ 0 := decide_eq_true_iff

theorem condEq_iff (a b : Word) : condEq a b = true ↔ a = b := beq_iff_eq

theorem condNe_iff (a b : Word) : condNe a b = true ↔ a ≠ b := bne_iff_ne

/-- Bit 31 is the sign bit. -/
theorem bit31_eq_true_iff (a : Word) : a.getLsbD 31 = true ↔ a.toInt < 0 := by
  rw [← BitVec.msb_eq_getLsbD_last a, BitVec.msb_eq_toInt, decide_eq_true_iff]

theorem bit31_eq_false_iff (a : Word) : a.getLsbD 31 = false ↔ 0 ≤ a.toInt := by
  rw [← Bool.not_eq_true, bit31_eq_true_iff, not_lt]

/-- Settles O40: with bit 31 read as the sign and the zero test as that of the signed value, each test is the signed
comparison its condition makes. -/
theorem branchConditionsAreSignBitTests : Obligations.BranchConditionsAreSignBitTests := by
  intro a b
  have hzero : a = 0 ↔ a.toInt = 0 := BitVec.toInt_inj.symm
  rw [bit31_eq_true_iff, bit31_eq_false_iff, ne_eq, hzero]
  refine ⟨⟨condGez_iff a, condGez_iff a⟩, ⟨condLtz_iff a, condLtz_iff a⟩, ⟨?_, condGtz_iff a⟩, ⟨?_, condLez_iff a⟩,
    condEq_iff a b, condNe_iff a b⟩
  · rw [condGtz_iff]
    omega
  · rw [condLez_iff]
    omega

end Sys2Proof.Machine
end

section
/-! Two steps under the policy `EXEC_DELAY_SLOT` (spec 42_branch.md R126, 92_eei_decisions.md D9; log 16). -/

namespace Sys2Proof.Machine

/-- A step without a trap goes on at the waiting target, or else at the next address, and leaves its own branch write
waiting. -/
theorem step_next_execDelaySlot {s t : State} (hh : s.cfg.harness = .execDelaySlot) (h : step s = .next t)
    (ht : t.out.trap = false) : t.pc = s.delayed.getD (s.pc + 4) ∧ t.delayed = t.out.pcWrite := by
  obtain ⟨-, i, o, -, rfl⟩ := step_next_cases h
  have htrap : o.trap = false := by simpa using ht
  rw [State.advance_execDelaySlot (by simpa using hh)]
  simp [htrap]

/-- Settles O58: with no target waiting the first step goes on at the next address, and its branch write is where the
second one goes on. -/
theorem delaySlotExecutesBeforeTheBranch : Obligations.DelaySlotExecutesBeforeTheBranch := by
  intro s t u hh hd hst ht htu hu
  have hh' : t.cfg.harness = .execDelaySlot := by rw [(stepsLeaveTextAndParameters s t hst).2, hh]
  obtain ⟨hpc, hdelayed⟩ := step_next_execDelaySlot hh hst ht
  obtain ⟨hpc', -⟩ := step_next_execDelaySlot hh' htu hu
  rw [hd, Option.getD_none] at hpc
  refine ⟨hpc, ?_⟩
  rw [hpc', hdelayed, hpc, BitVec.add_assoc]
  rfl

end Sys2Proof.Machine
end

section
/-! The answer of a branch's activation (spec 42_branch.md R121 to R125): where the ports it uses hold values, the commit
of the PC write its condition decides, and of the link. -/

namespace Sys2Proof.Machine

section
variable {s : State} {rs rt : Reg} {a b : Word}

theorem State.activate_branchOn (hrs : s.readGpr rs = some a) (rt : Reg) (imm : Half) (cond : Word → Bool) :
    s.activate rs rt (branchOn cond rs rt imm) = .next (s.commit (.branch (cond a) (branchTarget s.pc imm))) := by
  simp [State.activate, State.inputs, branchOn, iTypeSlots, hrs]

theorem State.activate_branchLinkOn (hrs : s.readGpr rs = some a) (rt : Reg) (imm : Half) (cond : Word → Bool) :
    s.activate rs rt (branchLinkOn cond rs rt imm) =
      .next (s.commit (.branchLink (cond a) (branchTarget s.pc imm) (linkValue s.pc))) := by
  simp [State.activate, State.inputs, branchLinkOn, iTypeSlots, hrs]

theorem State.activate_branchOnTwo (hrs : s.readGpr rs = some a) (hrt : s.readGpr rt = some b) (imm : Half)
    (cond : Word → Word → Bool) :
    s.activate rs rt (branchOnTwo cond rs rt imm) =
      .next (s.commit (.branch (cond a b) (branchTarget s.pc imm))) := by
  simp [State.activate, State.inputs, branchOnTwo, iTypeSlots, secondCompare, hrs, hrt]

end

section
variable {i : Instr} {s : State} {imm : Half} {taken : Bool} {P : Prop} [Decidable P]

/-- An instruction that commits a branch's signals writes the PC where the condition holds and changes nothing else. -/
theorem exec_commitsExactly_branch (hx : exec i s = .next (s.commit (.branch taken (branchTarget s.pc imm))))
    (hP : taken = true ↔ P) :
    ∃ t, exec i s = .next t ∧
      CommitsExactly s t none (if P then some (s.pc + (sext32 imm <<< 2)) else none) := by
  rw [← if_congr hP rfl rfl]
  exact ⟨_, hx, s.commit_commitsExactly _ _⟩

/-- An instruction that commits a branch and link's signals writes register 31, and the PC where the condition holds,
and changes nothing else. -/
theorem exec_commitsExactly_branchLink
    (hx : exec i s = .next (s.commit (.branchLink taken (branchTarget s.pc imm) (linkValue s.pc))))
    (hP : taken = true ↔ P) :
    ∃ t, exec i s = .next t ∧
      CommitsExactly s t (some (31, s.pc + 8)) (if P then some (s.pc + (sext32 imm <<< 2)) else none) := by
  rw [← if_congr hP rfl rfl]
  exact ⟨_, hx, s.commit_commitsExactly _ _⟩

end

end Sys2Proof.Machine
end

section
/-! The conditional branches and the branch-and-link instructions (spec 42_branch.md R127 to R134). -/

namespace Sys2Proof.Machine

/-- Settles O31: both ports are used, and the condition is equality. -/
theorem beqBranchesOnEqual : Obligations.BeqBranchesOnEqual :=
  ⟨fun _ => decode_of_and_mask (h := .beq), fun _ _ _ imm a b hrs hrt =>
    exec_commitsExactly_branch (State.activate_branchOnTwo hrs hrt imm condEq) (condEq_iff a b)⟩

/-- Settles O32: both ports are used, and the condition is inequality. -/
theorem bneBranchesOnDifferent : Obligations.BneBranchesOnDifferent :=
  ⟨fun _ => decode_of_and_mask (h := .bne), fun _ _ _ imm a b hrs hrt =>
    exec_commitsExactly_branch (State.activate_branchOnTwo hrs hrt imm condNe) (condNe_iff a b)⟩

/-- Settles O33: only port S is used, whatever register the rt field names. -/
theorem blezBranchesOnNotPositive : Obligations.BlezBranchesOnNotPositive :=
  ⟨fun _ => decode_of_and_mask (h := .blez), fun _ _ rt imm a hrs =>
    exec_commitsExactly_branch (State.activate_branchOn hrs rt imm condLez) (condLez_iff a)⟩

/-- Settles O34: only port S is used, whatever register the rt field names. -/
theorem bgtzBranchesOnPositive : Obligations.BgtzBranchesOnPositive :=
  ⟨fun _ => decode_of_and_mask (h := .bgtz), fun _ _ rt imm a hrs =>
    exec_commitsExactly_branch (State.activate_branchOn hrs rt imm condGtz) (condGtz_iff a)⟩

/-- Settles O35: only port S is used; port T reads the selector 0. -/
theorem bltzBranchesOnNegative : Obligations.BltzBranchesOnNegative :=
  ⟨fun _ => decode_of_and_mask (h := .bltz), fun _ _ imm a hrs =>
    exec_commitsExactly_branch (State.activate_branchOn hrs 0 imm condLtz) (condLtz_iff a)⟩

/-- Settles O36: only port S is used; port T reads the selector 1. -/
theorem bgezBranchesOnNotNegative : Obligations.BgezBranchesOnNotNegative :=
  ⟨fun _ => decode_of_and_mask (h := .bgez), fun _ _ imm a hrs =>
    exec_commitsExactly_branch (State.activate_branchOn hrs 1 imm condGez) (condGez_iff a)⟩

/-- Settles O37: the condition is decided on the snapshot's value, and the link is driven either way. -/
theorem bltzalAlwaysLinksAndBranchesOnNegative : Obligations.BltzalAlwaysLinksAndBranchesOnNegative :=
  ⟨fun _ => decode_of_and_mask (h := .bltzal), fun _ _ imm a hrs =>
    exec_commitsExactly_branchLink (State.activate_branchLinkOn hrs 16 imm condLtz) (condLtz_iff a)⟩

/-- Settles O38: the condition is decided on the snapshot's value, and the link is driven either way. -/
theorem bgezalAlwaysLinksAndBranchesOnNotNegative : Obligations.BgezalAlwaysLinksAndBranchesOnNotNegative :=
  ⟨fun _ => decode_of_and_mask (h := .bgezal), fun _ _ imm a hrs =>
    exec_commitsExactly_branchLink (State.activate_branchLinkOn hrs 17 imm condGez) (condGez_iff a)⟩

end Sys2Proof.Machine
end

section
/-! What Status.EXL does: once set it stays set and keeps traps out (spec 60_exceptions.md R149, 70_reset_and_hazards.md
R166), and it decides nothing but the overflow trap (60_exceptions.md R151). -/

namespace Sys2Proof.Machine

/-- Signals driven while EXL is set carry no trap. -/
theorem Drives.trap_of_exl {i : Instr} {s : State} {o : Outputs} (ho : Drives i s o) (he : s.exl = true) :
    o.trap = false := by
  by_contra ht
  obtain ⟨-, hclear, -⟩ := ho.of_trap (Bool.eq_true_of_not_eq_false ht)
  cases he.symm.trans hclear

/-- Settles O48: with EXL set no signals carry a trap, and a commit without one leaves the CP0 fields alone. -/
theorem noStepClearsExlOrClobbersATrap : Obligations.NoStepClearsExlOrClobbersATrap := by
  intro s t he ht
  obtain ⟨-, i, o, ho, rfl⟩ := step_next_cases ht
  simp [ho.trap_of_exl he, he]

/-- The answer of an activation with EXL replaced in its next state. -/
def Result.withExl (e : Bool) (r : Result) : Result :=
  match r with
  | .next t => .next { t with exl := e }
  | .fault f => .fault f
  | .refused x => .refused x

theorem State.writeGpr_update_exl (s : State) (e : Bool) (i : Reg) (v : Word) :
    { s with exl := e }.writeGpr i v = { s.writeGpr i v with exl := e } := by
  have hh : { s with exl := e }.hardwired i = s.hardwired i := rfl
  simp only [State.writeGpr, hh]
  split <;> rfl

theorem State.applyGprWrite_update_exl (s : State) (e : Bool) (w : Option (Reg × Word)) :
    { s with exl := e }.applyGprWrite w = { s.applyGprWrite w with exl := e } := by
  rcases w with _ | ⟨i, v⟩
  · rfl
  · exact s.writeGpr_update_exl e i v

/-- A commit without a trap neither reads nor writes EXL. -/
theorem State.commit_update_exl {o : Outputs} (ht : o.trap = false) (s : State) (e : Bool) :
    { s with exl := e }.commit o = { s.commit o with exl := e } := by
  simp only [State.commit, ht, State.applyGprWrite_update_exl]
  cases o.pcWrite <;> rfl

/-- An activation whose handler does not look at EXL and drives no trap goes the same way whatever EXL is. -/
theorem State.activate_update_exl {s : State} {rs rt : Reg} {handler : Inputs → Except Fault Outputs} {e : Bool}
    (hexl : ∀ inp : Inputs, handler { inp with exl := e } = handler inp)
    (htrap : ∀ t, s.activate rs rt handler = .next t → t.out.trap = false) :
    { s with exl := e }.activate rs rt handler = Result.withExl e (s.activate rs rt handler) := by
  have hin : handler ({ s with exl := e }.inputs rs rt) = handler (s.inputs rs rt) := hexl (s.inputs rs rt)
  unfold State.activate at htrap ⊢
  rw [hin]
  cases hh : handler (s.inputs rs rt) with
  | error f => rfl
  | ok o =>
    have ho : o.trap = false := by simpa using htrap (s.commit o) (by rw [hh])
    exact congrArg Host.Outcome.next (State.commit_update_exl ho s e)

/-- The handler of every instruction but `addi` leaves EXL out of account. -/
theorem exec_activates_without_exl {i : Instr} (hi : i.handler ≠ .addi) :
    ∃ handler : Inputs → Except Fault Outputs, (∀ s, exec i s = s.activate i.portS i.portT handler) ∧
      ∀ (inp : Inputs) (e : Bool), handler { inp with exl := e } = handler inp := by
  cases i <;> dsimp only [exec]
  case addi => exact absurd rfl hi
  case and | or | nor | xor | sll | sra | srl | sllv | srav | srlv => exact ⟨_, fun _ => rfl, fun _ _ => rfl⟩
  case andi | ori | xori | lui | addiu | slti | sltiu => exact ⟨_, fun _ => rfl, fun _ _ => rfl⟩
  case beq | bne | blez | bgtz | bltz | bgez | bltzal | bgezal => exact ⟨_, fun _ => rfl, fun _ _ => rfl⟩

/-- Every instruction but `addi` executes the same way whatever EXL is. -/
theorem exec_update_exl {i : Instr} (hi : i.handler ≠ .addi) (s : State) (e : Bool) :
    exec i { s with exl := e } = Result.withExl e (exec i s) := by
  obtain ⟨handler, hx, hexl⟩ := exec_activates_without_exl hi
  have htrap : ∀ t, s.activate i.portS i.portT handler = .next t → t.out.trap = false := fun t ht => by
    obtain ⟨o, ho, rfl⟩ := exec_next_cases ((hx s).trans ht)
    simpa using mt (fun h => (ho.of_trap h).1) hi
  rw [hx, hx]
  exact State.activate_update_exl (hexl · e) htrap

/-- An `addi` that does not overflow is an `addiu`. -/
theorem exec_addi_eq_addiu {s : State} {rs : Reg} {imm : Half}
    (hno : ∀ a, s.readGpr rs = some a → ¬ SignsOverflow a (sext32 imm) (a + sext32 imm)) (rt : Reg) :
    exec (.addi rt rs imm) s = exec (.addiu rt rs imm) s := by
  cases hrs : s.readGpr rs with
  | none => simp [exec, execAddi, execAddiu, firstSource, State.activate, State.inputs, iTypeSlots, hrs]
  | some a =>
    have hov : ovfAdd a (sext32 imm) (a + sext32 imm) = false :=
      Bool.eq_false_of_not_eq_true (mt (ovfAdd_iff _ _ _).1 (hno a hrs))
    rw [exec_addi hrs, exec_addiu hrs, hov]
    rfl

/-- Settles O49: an `addi` that does not overflow is an `addiu` under either EXL, and the other handlers do not look at
EXL. -/
theorem exlGatesOnlyTheOverflowTrap : Obligations.ExlGatesOnlyTheOverflowTrap := by
  intro i s e hno
  have hexec : exec i { s with exl := e } = Result.withExl e (exec i s) := by
    by_cases hi : i.handler = .addi
    · obtain ⟨rt, rs, imm, rfl⟩ := Instr.eq_addi_of_handler hi
      have hno' := fun a => hno rt rs imm a rfl
      rw [exec_addi_eq_addiu hno', exec_addi_eq_addiu (s := { s with exl := e }) hno']
      exact exec_update_exl (by simp [Instr.handler]) s e
    · exact exec_update_exl hi s e
  exact ⟨fun t ht => by rw [hexec, ht]; rfl, fun f hf => by rw [hexec, hf]; rfl⟩

end Sys2Proof.Machine
end

section
/-! The PC after a step under the two policies the spec names (spec 70_reset_and_hazards.md R164, 42_branch.md R126,
92_eei_decisions.md D9; log 16). -/

namespace Sys2Proof.Machine

/-- The commit of signals an instruction drives goes to their PC write, a trap's included, or leaves the PC. -/
theorem Drives.commit_pc {i : Instr} {s : State} {o : Outputs} (ho : Drives i s o) :
    (s.commit o).pc = o.pcWrite.getD s.pc := by
  rw [State.commit_pc]
  split
  · obtain ⟨-, -, rfl⟩ := ho.of_trap ‹_›
    rfl
  · rfl

/-- A step under the reference policy goes on where the block wrote the PC, or else at the next address. -/
theorem step_next_advanceIfNotWritten {s t : State} (hh : s.cfg.harness = .advanceIfNotWritten) (h : step s = .next t) :
    t.pc = t.out.pcWrite.getD (s.pc + 4) := by
  obtain ⟨-, i, o, ho, rfl⟩ := step_next_cases h
  have hpc := ho.commit_pc
  rw [State.advance_out, State.commit_out, State.advance_reference (by simpa using hh), State.commit_out]
  cases hw : o.pcWrite with
  | none =>
    rw [hw] at hpc
    rw [if_pos rfl]
    exact congrArg (· + 4) hpc
  | some p =>
    rw [hw] at hpc
    rw [if_neg nofun]
    exact hpc

/-- A step under the delay-slot policy that traps stays at the trap-entry address, and no target waits any more. -/
theorem step_next_execDelaySlot_trap {s t : State} (hh : s.cfg.harness = .execDelaySlot) (h : step s = .next t)
    (ht : t.out.trap = true) : t.pc = s.cfg.trapAddr ∧ t.delayed = none := by
  obtain ⟨-, i, o, -, rfl⟩ := step_next_cases h
  have htrap : o.trap = true := by simpa using ht
  rw [State.advance_execDelaySlot (by simpa using hh)]
  simp [htrap]

/-- Settles O51: the fetch of a step is aligned, and under each policy the advance goes on from the commit's PC. -/
theorem pcAfterAStep : Obligations.PcAfterAStep := by
  intro s t h
  refine ⟨(aligned_iff _).1 (step_next_cases h).1, fun hh => step_next_advanceIfNotWritten hh h, fun hh => ?_⟩
  split
  · exact step_next_execDelaySlot_trap hh h ‹_›
  · exact step_next_execDelaySlot hh h (Bool.eq_false_of_not_eq_true ‹_›)

end Sys2Proof.Machine
end

section
/-! When a step has a next state, and which one (spec 70_reset_and_hazards.md R164). -/

namespace Sys2Proof.Machine

/-- The step at a word that decodes is the activation of its instruction and the advance. -/
theorem step_of_decode {s : State} {w : Word} {i : Instr} (hw : s.fetch = .ok w) (hi : decode w = .ok i) :
    step s = advanceResult s.pc (exec i s) := by
  simp [step, hw, hi]

/-- An activation answers a next state exactly when every port its handler uses names a written register. -/
theorem exec_next_iff (i : Instr) (s : State) :
    (∃ t, exec i s = .next t) ↔
      (i.handler.usesS = true → s.readGpr i.portS ≠ none) ∧ (i.handler.usesT = true → s.readGpr i.portT ≠ none) := by
  have h := exec_answersByPorts i s
  unfold AnswersByPorts at h
  split at h
  case isTrue hS => exact iff_of_false (by simp [h]) fun hp => hp.1 hS.1 hS.2
  case isFalse hS =>
    split at h
    case isTrue hT => exact iff_of_false (by simp [h]) fun hp => hp.2 hT.1 hT.2
    case isFalse hT => exact iff_of_true h ⟨not_and.1 hS, not_and.1 hT⟩

/-- Settles O56: a step has a next state exactly when its fetch, its decoding and its activation do. -/
theorem stepIsSafeExactlyWhen : Obligations.StepIsSafeExactlyWhen := by
  intro s
  constructor
  · rintro ⟨t, ht⟩
    obtain ⟨w, i, u, hw, hi, hu, -⟩ := step_next ht
    obtain ⟨hal, hword⟩ := State.fetch_ok hw
    exact ⟨w, i, (aligned_iff _).1 hal, hword, hi, (exec_next_iff i s).1 ⟨u, hu⟩⟩
  · rintro ⟨w, i, hpc, hword, hi, hports⟩
    obtain ⟨u, hu⟩ := (exec_next_iff i s).2 hports
    have hw : s.fetch = .ok w := (State.fetch_of_aligned hpc).trans hword
    exact ⟨u.advance s.pc, by rw [step_of_decode hw hi, hu]; rfl⟩

/-- Settles O8: no activation touches the policy, the waiting target or the counter, so the advance after it goes by
those of the state before. -/
theorem stepRunsDecodedInstruction : Obligations.StepRunsDecodedInstruction := by
  intro s w i hw hi
  rw [step_of_decode hw hi]
  cases hx : exec i s with
  | fault f => rfl
  | refused r => rfl
  | next t =>
    obtain ⟨hcfg, -, hdelayed, hturn⟩ := exec_frame hx
    refine congrArg Host.Outcome.next ?_
    cases hh : s.cfg.harness with
    | advanceIfNotWritten => exact State.advance_reference (by rw [hcfg, hh]) s.pc
    | execDelaySlot => rw [State.advance_execDelaySlot (by rw [hcfg, hh]), hdelayed]
    | otherPolicy n => rw [State.advance_otherPolicy (by rw [hcfg, hh]), hturn]

end Sys2Proof.Machine
end

section
/-! The state at reset and the state after boot (spec 70_reset_and_hazards.md R160, R161). -/

namespace Sys2Proof.Machine

theorem State.atReset_gpr (c : Config) (exc : BitVec 5) (e : Word) (i : Fin 32) :
    (State.atReset c exc e).gpr[i] = 0 := by
  simp [State.atReset]

/-- At reset a read port yields 0 for a hard-wired register 0 and no value for any other register. -/
theorem State.readGpr_atReset (c : Config) (exc : BitVec 5) (e : Word) (r : Reg) :
    (State.atReset c exc e).readGpr r = if c.r0Hardwired = true ∧ r = 0 then some 0 else none := by
  simp [State.readGpr, State.hardwired, State.atReset]

/-- Boot has given every register the launch's value. -/
theorem State.readGpr_reset (r : Reg) : State.reset.readGpr r = some 0 := by
  simp [State.readGpr, State.reset, Launch.gprValue]

/-- At reset every register holds 0, nothing waits, no trap was driven, and the PC is `RESET_PC`. -/
theorem State.atReset_inv {c : Config} (hpc : aligned c.resetPc = true) (exc : BitVec 5) (e : Word) :
    (State.atReset c exc e).Inv where
  text := rfl
  zero _ := State.atReset_gpr c exc e 0
  unwritten i _ := State.atReset_gpr c exc e i
  alignedDelayed := nofun
  alignedPc _ _ := hpc
  trapped := nofun

/-- Boot keeps the invariant: the registers hold 0 and are written, and all else is as at reset. -/
theorem State.reset_inv : State.reset.Inv :=
  { State.atReset_inv (c := Launch.config) (by decide) Launch.excCode Launch.epc with
    zero := fun _ => by simp [State.reset, Launch.gprValue]
    unwritten := fun i hi => by simp [State.reset] at hi }

/-- Settles O53: `State.reset` by what boot writes, `State.atReset` field by field. -/
theorem resetMeetsInvariant : Obligations.ResetMeetsInvariant :=
  ⟨State.reset_inv, fun _ exc e hpc => State.atReset_inv ((aligned_iff _).2 hpc) exc e⟩

/-- Settles O54: the parameters and draws are the fields themselves, the rest is the read port at reset. -/
theorem resetFollowsItsParameters : Obligations.ResetFollowsItsParameters := fun c exc e =>
  ⟨rfl, rfl, rfl, rfl, State.readGpr_atReset c exc e⟩

/-- Settles O55: an activation faults only on an unwritten register, and boot leaves none. -/
theorem bootGivesEveryRegisterAValue : Obligations.BootGivesEveryRegisterAValue :=
  ⟨State.readGpr_reset, exec_next_of_all_written fun r => by simp [State.readGpr_reset]⟩

end Sys2Proof.Machine
end

section
/-! The spec's example words (spec 40_logical_shift.md sections 2 to 5, 41_imm_arith.md section 3, 42_branch.md
section 2). -/

namespace Sys2Proof

/-- The round trip O1, for a word known to be an encoding. -/
theorem decode_of_encode_eq {i : Instr} {w : Word} (hw : encode i = w) : decode w = .ok i :=
  hw ▸ decode_encode i

/-- Settles O7: each word is the encoding of the instruction its example names. -/
theorem sampleWordsDecode : Obligations.SampleWordsDecode := by
  unfold Obligations.SampleWordsDecode
  and_intros <;> exact decode_of_encode_eq (by decide)

end Sys2Proof
end
